-- ==== Sys2Proof/Word.lean ====
section
/-! DEFINITION. The word types of the HT48CA0 (`00_scope.md` rules R6, R9). -/

namespace Sys2Proof

/-- A data-memory cell, the accumulator, an immediate: 8 bits (R6). -/
abbrev Byte := BitVec 8

/-- A program-memory word: 14 bits (R6, R90). -/
abbrev Word14 := BitVec 14

/-- A program-memory address: 10 bits, the width of PC (R22). -/
abbrev PAddr := BitVec 10

/-- A data-memory address 00H to 3FH: 6 bits (R28). -/
abbrev DAddr := BitVec 6

/-- The data-address field `m` of an instruction word: 7 bits (R95), of which values above 3FH name no location (R64). -/
abbrev MField := BitVec 7

/-- The address field of JMP and CALL: 11 bits (R95), of which bit 10 has no PC bit to go to (R96). -/
abbrev AddrField := BitVec 11

end Sys2Proof
end

