-- ==== Sys2Proof/Syntax.lean ====
section
/-! DEFINITION. The 63 instructions of `30_encoding.md` rules R93, R102, one constructor per row of the opcode table, in the
table's order. Operands are the fields of the instruction word (R95, R96): `m` a data address, `x` an immediate, `i` a bit
number, `addr` a program address. -/

namespace Sys2Proof

/-- An instruction, mnemonic plus operand fields. -/
inductive Instr where
  /-- `NOP`, R205. -/
  | nop
  /-- `CLR WDT`, R208. -/
  | clrWdt
  /-- `CLR WDT1`, R209. -/
  | clrWdt1
  /-- `HALT`, R213. -/
  | halt
  /-- `RET`, R191. -/
  | ret
  /-- `RETI`, R194. -/
  | reti
  /-- `CLR WDT2`, R210. -/
  | clrWdt2
  /-- `MOV [m],A`, R172. -/
  | movMemA (m : MField)
  /-- `CPLA [m]`, R141. -/
  | cpla (m : MField)
  /-- `CPL [m]`, R140. -/
  | cpl (m : MField)
  /-- `SUB A,[m]`, R117. -/
  | subAM (m : MField)
  /-- `SUBM A,[m]`, R118. -/
  | subm (m : MField)
  /-- `ADD A,[m]`, R111. -/
  | addAM (m : MField)
  /-- `ADDM A,[m]`, R112. -/
  | addm (m : MField)
  /-- `XOR A,[m]`, R133. -/
  | xorAM (m : MField)
  /-- `XORM A,[m]`, R136. -/
  | xorm (m : MField)
  /-- `OR A,[m]`, R132. -/
  | orAM (m : MField)
  /-- `ORM A,[m]`, R135. -/
  | orm (m : MField)
  /-- `AND A,[m]`, R131. -/
  | andAM (m : MField)
  /-- `ANDM A,[m]`, R134. -/
  | andm (m : MField)
  /-- `MOV A,[m]`, R171. -/
  | movAM (m : MField)
  /-- `RET A,x`, R192. -/
  | retAX (x : Byte)
  /-- `SUB A,x`, R116. -/
  | subAX (x : Byte)
  /-- `ADD A,x`, R113. -/
  | addAX (x : Byte)
  /-- `XOR A,x`, R139. -/
  | xorAX (x : Byte)
  /-- `OR A,x`, R138. -/
  | orAX (x : Byte)
  /-- `AND A,x`, R137. -/
  | andAX (x : Byte)
  /-- `MOV A,x`, R173. -/
  | movAX (x : Byte)
  /-- `SZA [m]`, R183. -/
  | sza (m : MField)
  /-- `SZ [m]`, R182. -/
  | sz (m : MField)
  /-- `SWAPA [m]`, R212. -/
  | swapa (m : MField)
  /-- `SWAP [m]`, R211. -/
  | swap (m : MField)
  /-- `SBC A,[m]`, R119. -/
  | sbcAM (m : MField)
  /-- `SBCM A,[m]`, R120. -/
  | sbcm (m : MField)
  /-- `ADC A,[m]`, R114. -/
  | adcAM (m : MField)
  /-- `ADCM A,[m]`, R115. -/
  | adcm (m : MField)
  /-- `INCA [m]`, R151. -/
  | inca (m : MField)
  /-- `INC [m]`, R152. -/
  | inc (m : MField)
  /-- `DECA [m]`, R153. -/
  | deca (m : MField)
  /-- `DEC [m]`, R154. -/
  | dec (m : MField)
  /-- `SIZA [m]`, R188. -/
  | siza (m : MField)
  /-- `SIZ [m]`, R186. -/
  | siz (m : MField)
  /-- `SDZA [m]`, R189. -/
  | sdza (m : MField)
  /-- `SDZ [m]`, R187. -/
  | sdz (m : MField)
  /-- `RLA [m]`, R165. -/
  | rla (m : MField)
  /-- `RL [m]`, R166. -/
  | rl (m : MField)
  /-- `RRA [m]`, R161. -/
  | rra (m : MField)
  /-- `RR [m]`, R162. -/
  | rr (m : MField)
  /-- `RLCA [m]`, R167. -/
  | rlca (m : MField)
  /-- `RLC [m]`, R168. -/
  | rlc (m : MField)
  /-- `RRCA [m]`, R163. -/
  | rrca (m : MField)
  /-- `RRC [m]`, R164. -/
  | rrc (m : MField)
  /-- `TABRDC [m]`, R201. -/
  | tabrdc (m : MField)
  /-- `TABRDL [m]`, R202. -/
  | tabrdl (m : MField)
  /-- `DAA [m]`, R121. -/
  | daa (m : MField)
  /-- `CLR [m]`, R206. -/
  | clrM (m : MField)
  /-- `SET [m]`, R207. -/
  | setM (m : MField)
  /-- `CALL addr`, R190. -/
  | call (addr : AddrField)
  /-- `JMP addr`, R181. -/
  | jmp (addr : AddrField)
  /-- `SET [m].i`, R177. -/
  | setBit (m : MField) (i : BitVec 3)
  /-- `CLR [m].i`, R176. -/
  | clrBit (m : MField) (i : BitVec 3)
  /-- `SNZ [m].i`, R185. -/
  | snzBit (m : MField) (i : BitVec 3)
  /-- `SZ [m].i`, R184. -/
  | szBit (m : MField) (i : BitVec 3)
deriving DecidableEq, Repr

end Sys2Proof
end

