-- ==== Sys2Proof/Config.lean ====
section
/-! DEFINITION. The configuration of one HT48CA0: the eight mask options (`00_scope.md` rule R5) and the three open
parameters of the spec (R7). A `Cfg` is plain data; State carries one, so that a statement about every state is a
statement about every configuration (log 3). -/

namespace Sys2Proof

/-- Mask option 1, WDT_N: the watchdog times out after 2^n instruction cycles, n = 8 to 11 (R5, R236). -/
inductive WdtN where
  | n8 | n9 | n10 | n11
deriving DecidableEq, Repr

/-- The number n of mask option 1. -/
def WdtN.toNat : WdtN → Nat
  | .n8 => 8
  | .n9 => 9
  | .n10 => 10
  | .n11 => 11

/-- Mask option 3, CLRWDT_TIMES: `CLR WDT` alone, or `CLR WDT1` and `CLR WDT2` alternately (R5). -/
inductive ClrWdtTimes where
  | one | two
deriving DecidableEq, Repr

/-- Mask option 5, PC0_MODE: what pin PC0/REM carries (R5). -/
inductive Pc0Mode where
  | carrier | level
deriving DecidableEq, Repr

/-- Mask option 6, the factor CAR_M, 2 or 3 (R5). -/
inductive CarM where
  | two | three
deriving DecidableEq, Repr

/-- Mask option 6, the exponent CAR_N, 0 to 3 (R5). -/
inductive CarN where
  | n0 | n1 | n2 | n3
deriving DecidableEq, Repr

/-- A carrier duty (mask option 7, R5; R250). -/
inductive Duty where
  | half | third
deriving DecidableEq, Repr

/-- Mask option 8, the oscillator (R5, R252). -/
inductive Osc where
  | rc | crystal
deriving DecidableEq, Repr

/-- The parameter ENC: the map from words to instructions (`30_encoding.md` rule R94, D1, log 1). It is plain data; what a
value of it decodes and encodes is in `Decode.lean`. -/
inductive Enc where
  /-- The spec's default, the table of R95. -/
  | defaultTable
  /-- Any other encoding, word by word: each word that is an instruction, with that instruction. There are 2^14 words, so
  every partial function from words to instructions is such a list. -/
  | listed (rows : List (Word14 × Instr))
deriving DecidableEq, Repr

/-- The eight mask options in the order of R5, then the three parameters of R7. -/
structure Cfg where
  /-- WDT_N. -/
  wdtN : WdtN
  /-- WDT_EN. -/
  wdtEn : Bool
  /-- CLRWDT_TIMES. -/
  clrWdtTimes : ClrWdtTimes
  /-- WAKE[7:0], one bit per PB line. -/
  wake : BitVec 8
  /-- PC0_MODE. -/
  pc0Mode : Pc0Mode
  /-- CAR_M. -/
  carM : CarM
  /-- CAR_N. -/
  carN : CarN
  /-- CAR_DUTY. -/
  carDuty : Duty
  /-- OSC. -/
  osc : Osc
  /-- ENC (D1, log 1). -/
  enc : Enc
  /-- OV_SYMMETRIC (D9, log 16). -/
  ovSymmetric : Bool
  /-- PORT_LOW_WINS (D12, log 19). -/
  portLowWins : Bool
deriving DecidableEq, Repr

/-- The configuration `State.reset` carries. DESIGN CHOICE, unsafe (log 3): R5 gives no default for the mask options.
The three parameters of R7 have the spec's own defaults. -/
def Cfg.standard : Cfg where
  wdtN := .n8
  wdtEn := false
  clrWdtTimes := .one
  wake := 0#8
  pc0Mode := .level
  carM := .two
  carN := .n0
  carDuty := .half
  osc := .crystal
  enc := .defaultTable
  ovSymmetric := true
  portLowWins := true

end Sys2Proof
end

