-- ==== Sys2Proof/Machine/State.lean ====
section
/-! DEFINITION. The state of the HT48CA0 (`10_state.md` rules R20 to R48), the reasons a step can stop, and the state after
a power-on reset. -/

namespace Sys2Proof.Machine

/-- The values that a power-on leaves unknown (`10_state.md` rules R46 to R48, D18, D24), as the environment draws them: a
free value for each (log 8). `ram` lists the cells from 20H upward; a cell it does not reach holds 00H. -/
structure PowerOnValues where
  acc : Byte
  mp : BitVec 6
  tblp : Byte
  tblh : BitVec 6
  flagC : Bool
  flagAC : Bool
  flagZ : Bool
  flagOV : Bool
  stk : PAddr
  ram : List Byte
deriving DecidableEq, Repr

/-- What the environment can do to the chip at an instruction boundary besides setting pin levels (`60_exceptions.md`
rules R222, R257). -/
inductive Event where
  /-- V_DD rises: `Reset(power_on)`, with the unknown values drawn. -/
  | powerOn (u : PowerOnValues)
  /-- RES is held low for at least t_RES and released. -/
  | resLow
deriving DecidableEq, Repr

/-- The environment's part in one instruction boundary: the levels it puts on PA0-7 and PB0-7 from here on
(`20_memory.md` rule R70), and an event, if any. -/
structure Input where
  extPA : Byte
  extPB : Byte
  event : Option Event
deriving DecidableEq, Repr

/-- The state: the program-visible and hidden state of R20 and R41 to R43, the parameters of R21 (ROM and mask options,
which no step changes), and the environment (log 7). -/
structure State where
  /-- The mask options and open parameters (`00_scope.md` R5, R7). -/
  cfg : Cfg
  /-- Program memory, the words that differ from an unlisted one, addresses rising (`20_memory.md` R60 (a), log 4). -/
  rom : List (Nat × Word14)
  /-- PC. During an instruction it holds the instruction's address plus one (`00_scope.md` R11). -/
  pc : PAddr
  /-- STK (R25). -/
  stk : PAddr
  /-- STKV: a return address stands in STK (R26, D8). -/
  stkv : Bool
  /-- ACC (R27). -/
  acc : Byte
  /-- MP (R30). -/
  mp : BitVec 6
  /-- TBLP (R31). -/
  tblp : Byte
  /-- TBLH (R31). -/
  tblh : BitVec 6
  /-- C, STATUS bit 0 (R32, R33). -/
  flagC : Bool
  /-- AC, STATUS bit 1. -/
  flagAC : Bool
  /-- Z, STATUS bit 2. -/
  flagZ : Bool
  /-- OV, STATUS bit 3. -/
  flagOV : Bool
  /-- PD, STATUS bit 4 (R35). -/
  flagPD : Bool
  /-- TO, STATUS bit 5 (R35). -/
  flagTO : Bool
  /-- The output latch PA_L (R36). -/
  paL : Byte
  /-- The output latch PB_L (R37, D29). -/
  pbL : BitVec 2
  /-- The output latch PC0_L (R38). -/
  pc0L : Bool
  /-- RAM[20H..3FH]: the cells that differ from an unlisted one, addresses rising (R40, log 5). -/
  ram : List Host.Cell
  /-- The watchdog counter WDT (R41, log 22). -/
  wdt : Nat
  /-- The arming mark W1 (R42). -/
  w1 : Bool
  /-- The arming mark W2 (R42). -/
  w2 : Bool
  /-- The mark Halted (R43). -/
  halted : Bool
  /-- ExtPA: the levels the environment puts on PA0-7 now (`20_memory.md` R70). -/
  extPA : Byte
  /-- ExtPB: the levels the environment puts on PB0-7 now. -/
  extPB : Byte
  /-- What the environment does at the coming boundaries, the next one first; after the last the levels stay and nothing
  happens (log 7). -/
  inputs : List Input
deriving DecidableEq, Repr

/-- The part raises no synchronous exception (`60_exceptions.md` rule R220, log 35): no constructor, so no step faults. -/
inductive Fault where
deriving DecidableEq, Repr

/-- The steps the spec refuses (`00_scope.md` rule R10: the sources do not say what the chip does). All are safe: the model
stops where the chip does something unknown. -/
inductive Refusal where
  /-- An instruction without a meaning: raised by an arm of `exec` only. Safe. -/
  | notModelled (mnemonic : String)
  /-- The fetched word decodes to no instruction (`30_encoding.md` R97, D23): raised by `step`. Safe. -/
  | unmappedWord
  /-- An operand field above 3FH (`20_memory.md` R64, D7): raised by every `[m]` and `[m].i` instruction. Safe. -/
  | dataAddressAbove3FH
  /-- JMP or CALL with address bit 10 set (`30_encoding.md` R96, D1): raised by these two. Safe. -/
  | programAddressAbove3FFH
  /-- A return with STKV = 0 (`10_state.md` R26, D8): raised by RET, RET A,x and RETI. Safe. -/
  | returnWithEmptyStack
  /-- A flag-writing instruction with destination STATUS (`20_memory.md` R80 (d), D10): raised by the thirteen instructions
  named there. Safe. -/
  | flagWriteToStatus
  /-- SIZ or SDZ with destination PCL and result 00H (`46_branch.md` R186, R187, D11): raised by these two. Safe. -/
  | skipWithPclLoad
  /-- A CLR WDT instruction of the group the mask option does not select (`48_misc.md` R208 to R210, D14): raised by
  CLR WDT, CLR WDT1 and CLR WDT2. Safe. -/
  | clrWdtGroupNotSelected
deriving DecidableEq, Repr

/-- The outcome of an instruction or a step. -/
abbrev Result := Host.Outcome State Fault Refusal

/-- The machine after a power-on reset (`10_state.md` rules R46, R47; `60_exceptions.md` rule R226). What these rules give is
as they give it: PC, STKV, TO, PD, the latches, WDT, W1, W2, Halted. What they call unknown is zero here, DESIGN CHOICE,
unsafe (log 5, log 6), as are the mask options (log 3), the empty ROM (log 4) and the quiet environment (log 7). -/
def State.reset : State where
  cfg := Cfg.standard
  rom := []
  pc := 0x000#10
  stk := 0#10
  stkv := false
  acc := 0#8
  mp := 0#6
  tblp := 0#8
  tblh := 0#6
  flagC := false
  flagAC := false
  flagZ := false
  flagOV := false
  flagPD := false
  flagTO := false
  paL := 0xFF#8
  pbL := 0b11#2
  pc0L := true
  ram := []
  wdt := 0
  w1 := false
  w2 := false
  halted := false
  extPA := 0xFF#8
  extPB := 0xFF#8
  inputs := []

end Sys2Proof.Machine
end

