-- ==== Sys2Proof/Machine/Flags.lean ====
section
/-! DEFINITION. The ALU: results and flags of every operation the spec gives it (`40_arithmetic.md` rules R110, R121, R122;
`41_logic.md` R130; `42_incdec.md` R150; `43_rotate.md` R160; `48_misc.md` R211). -/

namespace Sys2Proof.Machine

/-- The flags an instruction writes: `none` leaves the flag as it is (`00_scope.md` rule R12). -/
structure FlagWrites where
  c : Option Bool := none
  ac : Option Bool := none
  z : Option Bool := none
  ov : Option Bool := none
deriving DecidableEq, Repr

/-- The instruction writes at least one flag, which decides `20_memory.md` rule R80 (d). -/
def FlagWrites.any (f : FlagWrites) : Bool := f.c.isSome || f.ac.isSome || f.z.isSome || f.ov.isSome

/-- The state with these flags written. -/
def State.withFlags (s : State) (f : FlagWrites) : State :=
  { s with flagC := f.c.getD s.flagC, flagAC := f.ac.getD s.flagAC, flagZ := f.z.getD s.flagZ, flagOV := f.ov.getD s.flagOV }

/-- What the ALU gives an instruction: the 8-bit result and the flags it writes. -/
structure AluResult where
  value : Byte
  flags : FlagWrites
deriving DecidableEq, Repr

/-- `Add8(a, b, cin)` of R110, the adder with its four flags. `ovSymmetric` is `Cfg.OV_SYMMETRIC` (D9, log 16). -/
def add8 (ovSymmetric : Bool) (a b : Byte) (cin : Bool) : AluResult :=
  let s9 := a.toNat + b.toNat + cin.toNat
  let carryOut := decide (s9 / 256 = 1)
  let carryTo7 := decide ((a.toNat % 128 + b.toNat % 128 + cin.toNat) / 128 = 1)
  let r := BitVec.ofNat 8 s9
  { value := r
    flags :=
      { c := some carryOut
        ac := some (decide ((a.toNat % 16 + b.toNat % 16 + cin.toNat) / 16 = 1))
        z := some (decide (r = 0#8))
        ov := some ((carryTo7 && !carryOut) || (ovSymmetric && !carryTo7 && carryOut)) } }

/-- A result that writes no flag. -/
def noFlags (v : Byte) : AluResult := { value := v, flags := {} }

/-- A result that writes Z only: set if the 8-bit result is 00H (R130, R150). -/
def zeroFlag (v : Byte) : AluResult := { value := v, flags := { z := some (decide (v = 0#8)) } }

/-- A result that writes C only (R160, R121). -/
def carryFlag (v : Byte) (c : Bool) : AluResult := { value := v, flags := { c := some c } }

/-- v + 1 modulo 256 (R150). -/
def inc8 (v : Byte) : Byte := v + 1#8

/-- v - 1 modulo 256 (R150). -/
def dec8 (v : Byte) : Byte := v - 1#8

/-- `v[0] ++ v[7:1]` (R161). -/
def rotateRight (v : Byte) : Byte := v.extractLsb' 0 1 ++ v.extractLsb' 1 7

/-- `v[6:0] ++ v[7]` (R165). -/
def rotateLeft (v : Byte) : Byte := v.extractLsb' 0 7 ++ v.extractLsb' 7 1

/-- `c ++ v[7:1]`, C taking `v[0]` (R163). -/
def rotateRightCarry (c : Bool) (v : Byte) : AluResult :=
  carryFlag (BitVec.ofBool c ++ v.extractLsb' 1 7) (v.getLsbD 0)

/-- `v[6:0] ++ c`, C taking `v[7]` (R167). -/
def rotateLeftCarry (c : Bool) (v : Byte) : AluResult :=
  carryFlag (v.extractLsb' 0 7 ++ BitVec.ofBool c) (v.getLsbD 7)

/-- `v[3:0] ++ v[7:4]` (R211). -/
def swapNibbles (v : Byte) : Byte := v.extractLsb' 0 4 ++ v.extractLsb' 4 4

/-- The byte with bit `i` forced to 0 (R176). -/
def clearBit (i : BitVec 3) (v : Byte) : Byte := v &&& ~~~(1#8 <<< i.toNat)

/-- The byte with bit `i` forced to 1 (R177). -/
def setBit (i : BitVec 3) (v : Byte) : Byte := v ||| (1#8 <<< i.toNat)

/-- The decimal adjust of R121: the source's operation block, applied literally to every input (U14, log 34). Only C is
written, and only ever to 1. -/
def decimalAdjust (acc : Byte) (ac c : Bool) : AluResult :=
  let lo := acc.toNat % 16
  let hi := acc.toNat / 16
  let adjustLow := decide (lo > 9) || ac
  let rlo := if adjustLow then (lo + 6) % 16 else lo
  let ac1 := if adjustLow then 1 - ac.toNat else 0
  let adjustHigh := decide (hi + ac1 > 9) || c
  let rhi := if adjustHigh then (hi + 6 + ac1) % 16 else (hi + ac1) % 16
  carryFlag (BitVec.ofNat 8 (16 * rhi + rlo)) (if adjustHigh then true else c)

end Sys2Proof.Machine
end

