-- ==== Sys2Proof/Machine/Memory.lean ====
section
/-! DEFINITION. Sparse memory, for RAM (cells of 8 bits) and ROM (words of 14 bits): a list of address and value pairs in one
canonical form, addresses strictly rising and no value equal to what an unlisted address reads as. -/

namespace Sys2Proof.Machine

/-- What an unlisted address reads as. DESIGN CHOICE, unsafe (log 4, log 5): the spec gives no contents for ROM (N25) or for
RAM after power-on (`10_state.md` rule R47). -/
def Memory.unlisted {w : Nat} : BitVec w := 0#w

/-- The value at an address. -/
def Memory.read {w : Nat} : List (Nat × BitVec w) → Nat → BitVec w
  | [], _ => Memory.unlisted
  | (b, v) :: rest, a => if a = b then v else Memory.read rest a

/-- The memory without any entry for address `a`. -/
def Memory.erase {w : Nat} (mem : List (Nat × BitVec w)) (a : Nat) : List (Nat × BitVec w) :=
  mem.filter fun p => decide (p.1 ≠ a)

/-- The pair (a, v) in front of the first greater address. -/
def Memory.insert {w : Nat} : List (Nat × BitVec w) → Nat → BitVec w → List (Nat × BitVec w)
  | [], a, v => [(a, v)]
  | (b, u) :: rest, a, v => if a < b then (a, v) :: (b, u) :: rest else (b, u) :: Memory.insert rest a v

/-- The memory with `v` at address `a`, in canonical form: writing what an unlisted address reads as removes the entry. -/
def Memory.write {w : Nat} (mem : List (Nat × BitVec w)) (a : Nat) (v : BitVec w) : List (Nat × BitVec w) :=
  if v = Memory.unlisted then Memory.erase mem a else Memory.insert (Memory.erase mem a) a v

/-- The canonical form from address `lo` up: addresses at least `lo`, strictly rising, below `hi`, and no value equal to what
an unlisted address reads as. -/
def Memory.wfFrom {w : Nat} (lo hi : Nat) : List (Nat × BitVec w) → Bool
  | [] => true
  | (a, v) :: rest => decide (lo ≤ a) && decide (a < hi) && decide (v ≠ Memory.unlisted) && Memory.wfFrom (a + 1) hi rest

/-- A memory in canonical form that holds addresses `lo` to `hi - 1` only. -/
def Memory.wf {w : Nat} (lo hi : Nat) (mem : List (Nat × BitVec w)) : Bool := Memory.wfFrom lo hi mem

/-- Values stored at consecutive addresses from `a`, each below `hi`. -/
def Memory.fill {w : Nat} (hi : Nat) : Nat → List (BitVec w) → List (Nat × BitVec w) → List (Nat × BitVec w)
  | _, [], mem => mem
  | a, v :: vs, mem => if a < hi then Memory.fill hi (a + 1) vs (Memory.write mem a v) else mem

end Sys2Proof.Machine
end

