-- ==== Sys2Proof/Machine/Ops.lean ====
section
/-! DEFINITION. The operations the instructions and the step are made of: register updates, program memory, the stack, the
watchdog, the port pins, the reset transition, wake-up, and the instruction boundary. -/

namespace Sys2Proof.Machine

/-! ## Registers -/

/-- ACC <- v. -/
def State.withAcc (s : State) (v : Byte) : State := { s with acc := v }

/-- PC <- a. -/
def State.withPc (s : State) (a : PAddr) : State := { s with pc := a }

/-- TBLH <- v, by a table read only (`10_state.md` rule R31). -/
def State.withTblh (s : State) (v : BitVec 6) : State := { s with tblh := v }

/-- The fetch increment: PC <- (PC + 1) mod 1024 (`00_scope.md` rule R11; the wrap is D3, log 11). -/
def State.advance (s : State) : State := { s with pc := s.pc + 1#10 }

/-- n instruction cycles on the watchdog counter, which counts only when enabled (`60_exceptions.md` rules R237, R239;
`70_reset_and_hazards.md` R280). -/
def State.tick (n : Nat) (s : State) : State := { s with wdt := if s.cfg.wdtEn then s.wdt + n else s.wdt }

/-- `Skip()`: PC <- (PC + 1) mod 1024, one cycle more (`46_branch.md` rule R180). -/
def State.skip (s : State) : State := s.advance.tick 1

/-- A skip on a condition (R180). -/
def State.skipIf (b : Bool) (s : State) : State := if b then s.skip else s

/-! ## Memories -/

/-- `PRead(a)`: the ROM word at a 10-bit address (`20_memory.md` rule R62). -/
def State.pread (s : State) (a : PAddr) : Word14 := Memory.read s.rom a.toNat

/-- The RAM cell at a data address, 20H to 3FH (`10_state.md` rule R40). -/
def State.cell (s : State) (a : Nat) : Byte := Memory.read s.ram a

/-- The RAM cell at a data address set to `v`. -/
def State.withCell (s : State) (a : Nat) (v : Byte) : State := { s with ram := Memory.write s.ram a v }

/-! ## The stack register -/

/-- CALL's push: STK <- PC, STKV <- 1; an older address is lost (`10_state.md` rule R25). -/
def State.push (s : State) : State := { s with stk := s.pc, stkv := true }

/-- A return's pop: PC <- STK, STKV <- 0; STK keeps its bits (`46_branch.md` rule R191). -/
def State.pop (s : State) : State := { s with pc := s.stk, stkv := false }

/-! ## The watchdog -/

/-- A software clearing: WDT, PD and TO to 0 (`48_misc.md` rule R208). -/
def State.clearWatchdog (s : State) : State := { s with wdt := 0, flagPD := false, flagTO := false }

/-- W1 and W2 to 0 (R209, D13). -/
def State.clearMarks (s : State) : State := { s with w1 := false, w2 := false }

/-- W1 <- 1 (R209). -/
def State.mark1 (s : State) : State := { s with w1 := true }

/-- W2 <- 1 (R210). -/
def State.mark2 (s : State) : State := { s with w2 := true }

/-- The count has reached 2^WDT_N while the watchdog is enabled and the chip runs (R236, R237, R241; D15, log 22). -/
def State.watchdogExpired (s : State) : Bool :=
  s.cfg.wdtEn && !s.halted && decide (2 ^ s.cfg.wdtN.toNat ≤ s.wdt)

/-! ## Port pins -/

/-- `PinRead(PA)` for given outside levels (`20_memory.md` rule R70; PORT_LOW_WINS is D12, log 19). -/
def State.pinA (s : State) (ext : Byte) : Byte := if s.cfg.portLowWins then s.paL &&& ext else ext

/-- `PinRead(PB)` for given outside levels; PB2-7 have no latch (R70, D12, D29). -/
def State.pinB (s : State) (ext : Byte) : Byte :=
  if s.cfg.portLowWins then (0b111111#6 ++ s.pbL) &&& ext else ext

/-! ## STATUS and the special registers -/

/-- The byte STATUS reads as: `0 0 TO PD OV Z AC C` (`10_state.md` rule R32). -/
def State.status (s : State) : Byte :=
  0b00#2 ++ BitVec.ofBool s.flagTO ++ BitVec.ofBool s.flagPD ++ BitVec.ofBool s.flagOV ++ BitVec.ofBool s.flagZ
    ++ BitVec.ofBool s.flagAC ++ BitVec.ofBool s.flagC

/-- A data write to STATUS: C, AC, Z, OV from bits 0 to 3, nothing else (R34). -/
def State.withStatus (s : State) (v : Byte) : State :=
  { s with flagC := v.getLsbD 0, flagAC := v.getLsbD 1, flagZ := v.getLsbD 2, flagOV := v.getLsbD 3 }

/-- MP <- v[5:0] (R30). -/
def State.withMp (s : State) (v : Byte) : State := { s with mp := v.extractLsb' 0 6 }

/-- TBLP <- v (R31). -/
def State.withTblp (s : State) (v : Byte) : State := { s with tblp := v }

/-- PC <- PC[9:8] ++ v, the short jump of a write to PCL (R24). -/
def State.withPcl (s : State) (v : Byte) : State := { s with pc := s.pc.extractLsb' 8 2 ++ v }

/-- PA_L <- v (R36). -/
def State.withPaL (s : State) (v : Byte) : State := { s with paL := v }

/-- PB_L <- v[1:0] (R37, D29). -/
def State.withPbL (s : State) (v : Byte) : State := { s with pbL := v.extractLsb' 0 2 }

/-- PC0_L <- v[0] (R38). -/
def State.withPc0L (s : State) (v : Byte) : State := { s with pc0L := v.getLsbD 0 }

/-! ## Resets, wake-up, the boundary

The part has no exception; the reset transition is its one transfer of control outside the program (R220, R224). Nothing is
saved and nothing returns from it (R227); the return instructions return from CALL only, by `State.pop` above. -/

/-- The four kinds of reset (R226). A power-on comes with the values it leaves unknown (log 8). -/
inductive ResetKind where
  | powerOn (u : PowerOnValues)
  | resNormal
  | resHalt
  | wdt
deriving DecidableEq, Repr

/-- What every reset does (R226, before `case kind of`). -/
def State.resetCommon (s : State) : State :=
  { s with
    pc := 0x000#10, stkv := false, wdt := 0, w1 := false, w2 := false, halted := false
    paL := 0xFF#8, pbL := 0b11#2, pc0L := true }

/-- The registers and cells a power-on leaves unknown, with the drawn values (R226, D24, D18, log 8). -/
def State.withUnknowns (s : State) (u : PowerOnValues) : State :=
  { s with
    acc := u.acc, mp := u.mp, tblp := u.tblp, tblh := u.tblh
    flagC := u.flagC, flagAC := u.flagAC, flagZ := u.flagZ, flagOV := u.flagOV
    stk := u.stk, ram := Memory.fill 0x40 0x20 u.ram [] }

/-- TO and PD set. -/
def State.withCause (s : State) (cto cpd : Bool) : State := { s with flagTO := cto, flagPD := cpd }

/-- `Reset(kind)` of R226. -/
def State.takeReset (kind : ResetKind) (s : State) : State :=
  match kind with
  | .powerOn u => (s.resetCommon.withUnknowns u).withCause false false
  | .resNormal => s.resetCommon
  | .resHalt => s.resetCommon.withCause false true
  | .wdt => s.resetCommon.withCause true s.flagPD

/-- Wake-up: Halted <- 0 and nothing else (R247, D25). -/
def State.wake (s : State) : State := { s with halted := false }

/-- A PB line with the wake-up option goes from high to low when the outside levels go from `s.extPB` to `ext` (R247; the
level is the pin's, log 10). -/
def State.wakeEdge (s : State) (ext : Byte) : Bool :=
  decide ((s.pinB s.extPB &&& ~~~(s.pinB ext) &&& s.cfg.wake) ≠ 0#8)

/-- The environment's part in the coming boundary: the next of `inputs`, or unchanged levels and no event (log 7). -/
def State.currentInput (s : State) : Input :=
  match s.inputs with
  | [] => { extPA := s.extPA, extPB := s.extPB, event := none }
  | inp :: _ => inp

/-- The outside levels of the coming boundary on the pins, and the list moved on. -/
def State.withInput (s : State) : State :=
  { s with extPA := s.currentInput.extPA, extPB := s.currentInput.extPB, inputs := s.inputs.tail }

/-- One instruction boundary: power-on, then RES, then the watchdog time-out, then (only while halted) the wake-up
(R223, D17, log 9). -/
def State.boundary (s : State) : State :=
  match s.currentInput.event with
  | some (.powerOn u) => s.withInput.takeReset (.powerOn u)
  | some .resLow => s.withInput.takeReset (if s.halted then .resHalt else .resNormal)
  | none =>
    if s.watchdogExpired then s.withInput.takeReset .wdt
    else if s.halted && s.wakeEdge s.currentInput.extPB then s.withInput.wake
    else s.withInput

/-- A result with `f` applied to its next state; a stop stays as it is. -/
def mapNext (f : State → State) : Result → Result
  | .next t => .next (f t)
  | .fault r => .fault r
  | .refused r => .refused r

end Sys2Proof.Machine
end

