-- ==== Sys2Proof/Machine/Operands.lean ====
section
/-! DEFINITION. Data-memory operands: the address map (`10_state.md` rule R28), `EA`, `DRead` and `DWrite` (`20_memory.md`
rules R65 to R67), and the shapes of instruction that R80 orders: read, compute, write the flags, write the result. -/

namespace Sys2Proof.Machine

/-- What a data address 00H to 3FH names (R28). -/
inductive Loc where
  /-- 00H reached through MP = 00H: no cell (R30). -/
  | noCell
  | mp
  | acc
  | pcl
  | tblp
  | tblh
  | status
  | portA
  | portB
  | portC
  /-- The reserved addresses (R39). -/
  | reserved
  /-- 20H to 3FH (R40). -/
  | ram
deriving DecidableEq, Repr

/-- The address map of R28. -/
def locOf (a : DAddr) : Loc :=
  match a.toNat with
  | 0x00 => .noCell
  | 0x01 => .mp
  | 0x05 => .acc
  | 0x06 => .pcl
  | 0x07 => .tblp
  | 0x08 => .tblh
  | 0x0A => .status
  | 0x12 => .portA
  | 0x14 => .portB
  | 0x16 => .portC
  | n => if 0x20 ≤ n then .ram else .reserved

/-- `EA(m)` of R65 for a field in range: MP for 00H, the field itself otherwise. One level only. -/
def effectiveAddress (m : MField) (s : State) : DAddr := if m = 0#7 then s.mp else m.extractLsb' 0 6

/-- `DRead` at an effective address (R66). -/
def dread (s : State) (a : DAddr) : Byte :=
  match locOf a with
  | .noCell => 0x00#8
  | .mp => 0b11#2 ++ s.mp
  | .acc => s.acc
  | .pcl => s.pc.extractLsb' 0 8
  | .tblp => s.tblp
  | .tblh => 0b00#2 ++ s.tblh
  | .status => s.status
  | .portA => s.pinA s.extPA
  | .portB => s.pinB s.extPB
  | .portC => 0b0000000#7 ++ BitVec.ofBool s.pc0L
  | .reserved => 0x00#8
  | .ram => s.cell a.toNat

/-- `DWrite` at an effective address (R67). A write to PCL takes one cycle more. -/
def dwrite (s : State) (a : DAddr) (v : Byte) : State :=
  match locOf a with
  | .noCell => s
  | .mp => s.withMp v
  | .acc => s.withAcc v
  | .pcl => (s.withPcl v).tick 1
  | .tblp => s.withTblp v
  | .tblh => s
  | .status => s.withStatus v
  | .portA => s.withPaL v
  | .portB => s.withPbL v
  | .portC => s.withPc0L v
  | .reserved => s
  | .ram => s.withCell a.toNat v

/-- An instruction with operand `[m]`: refused where m is above 3FH (R64, R80 (i), D7), otherwise `k` at `EA(m)`, which is
formed once, before anything is read or written (R65). -/
def withOperand (m : MField) (s : State) (k : DAddr → Result) : Result :=
  if m.toNat ≤ 0x3F then k (effectiveAddress m s) else .refused .dataAddressAbove3FH

/-- `A,[m]` and `[m]` forms with the result in ACC: one cycle. -/
def loadOp (m : MField) (s : State) (op : Byte → AluResult) : Result :=
  withOperand m s fun a =>
    .next (((s.withFlags (op (dread s a)).flags).withAcc (op (dread s a)).value).tick 1)

/-- Immediate forms: the result in ACC, one cycle. -/
def immediateOp (s : State) (r : AluResult) : Result := .next (((s.withFlags r.flags).withAcc r.value).tick 1)

/-- Forms with the result in `[m]`: flags, then `DWrite`, one cycle; refused where the instruction writes a flag and the
destination is STATUS (R80 (d), D10). -/
def storeResult (s : State) (a : DAddr) (r : AluResult) : Result :=
  if r.flags.any && decide (a = 0x0A#6) then .refused .flagWriteToStatus
  else .next ((dwrite (s.withFlags r.flags) a r.value).tick 1)

/-- Read-modify-write of `[m]` (R80). On a port it reads the pins and writes the latch (R72). -/
def modifyOp (m : MField) (s : State) (op : Byte → AluResult) : Result :=
  withOperand m s fun a => storeResult s a (op (dread s a))

/-- A write of `[m]` that does not read it. -/
def storeOp (m : MField) (s : State) (r : AluResult) : Result := withOperand m s fun a => storeResult s a r

/-- A skip on a test of the byte read: nothing is written (`46_branch.md` rules R182, R184, R185). -/
def testSkip (m : MField) (s : State) (p : Byte → Bool) : Result :=
  withOperand m s fun a => .next ((s.skipIf (p (dread s a))).tick 1)

/-- A result to ACC, in both cases, and a skip if it is 00H (R183, R188, R189; D26). -/
def loadSkip (m : MField) (s : State) (f : Byte → Byte) : Result :=
  withOperand m s fun a => .next (((s.withAcc (f (dread s a))).skipIf (decide (f (dread s a) = 0#8))).tick 1)

/-- A result to `[m]`, in both cases, and a skip if it is 00H; refused where both would load PC (R186, R187; D11). -/
def modifySkip (m : MField) (s : State) (f : Byte → Byte) : Result :=
  withOperand m s fun a =>
    if decide (a = 0x06#6) && decide (f (dread s a) = 0#8) then .refused .skipWithPclLoad
    else .next (((dwrite s a (f (dread s a))).skipIf (decide (f (dread s a) = 0#8))).tick 1)

/-- A table read of ROM address `t`: w[13:8] to TBLH, then w[7:0] to `[m]`, two cycles (`20_memory.md` rule R63;
`47_table.md` rule R200). -/
def tableRead (m : MField) (s : State) (t : PAddr) : Result :=
  withOperand m s fun a =>
    .next ((dwrite (s.withTblh ((s.pread t).extractLsb' 8 6)) a ((s.pread t).extractLsb' 0 8)).tick 2)

/-- JMP and CALL: refused where bit 10 of the address field is set (`30_encoding.md` rule R96, D1). -/
def withTarget (addr : AddrField) (k : PAddr → Result) : Result :=
  if addr.toNat ≤ 0x3FF then k (addr.extractLsb' 0 10) else .refused .programAddressAbove3FFH

/-- A return: refused where nothing has been pushed (`10_state.md` rule R26, D8). -/
def withReturn (s : State) (k : State → Result) : Result :=
  if s.stkv then k s.pop else .refused .returnWithEmptyStack

end Sys2Proof.Machine
end

