-- ==== Sys2Proof/Machine/Arithmetic.lean ====
section
/-! DEFINITION. The meanings of the arithmetic instructions (`40_arithmetic.md` rules R111 to R121). Subtraction adds
the one's complement, so C and AC mean no borrow (R110). `s` is the state after the fetch increment. -/

namespace Sys2Proof.Machine

/-- `ADD A,[m]` (R111): ACC <- ACC + [m]. -/
def execAddAM (m : MField) (s : State) : Result :=
  loadOp m s fun b => add8 s.cfg.ovSymmetric s.acc b false

/-- `ADDM A,[m]` (R112): [m] <- ACC + [m]. -/
def execAddm (m : MField) (s : State) : Result :=
  modifyOp m s fun b => add8 s.cfg.ovSymmetric s.acc b false

/-- `ADD A,x` (R113): ACC <- ACC + x. -/
def execAddAX (x : Byte) (s : State) : Result :=
  immediateOp s (add8 s.cfg.ovSymmetric s.acc x false)

/-- `ADC A,[m]` (R114): ACC <- ACC + [m] + C. -/
def execAdcAM (m : MField) (s : State) : Result :=
  loadOp m s fun b => add8 s.cfg.ovSymmetric s.acc b s.flagC

/-- `ADCM A,[m]` (R115): [m] <- ACC + [m] + C. -/
def execAdcm (m : MField) (s : State) : Result :=
  modifyOp m s fun b => add8 s.cfg.ovSymmetric s.acc b s.flagC

/-- `SUB A,x` (R116): ACC <- ACC + ~x + 1. -/
def execSubAX (x : Byte) (s : State) : Result :=
  immediateOp s (add8 s.cfg.ovSymmetric s.acc (~~~x) true)

/-- `SUB A,[m]` (R117): ACC <- ACC + ~[m] + 1. -/
def execSubAM (m : MField) (s : State) : Result :=
  loadOp m s fun b => add8 s.cfg.ovSymmetric s.acc (~~~b) true

/-- `SUBM A,[m]` (R118): [m] <- ACC + ~[m] + 1, that is ACC - [m]. -/
def execSubm (m : MField) (s : State) : Result :=
  modifyOp m s fun b => add8 s.cfg.ovSymmetric s.acc (~~~b) true

/-- `SBC A,[m]` (R119): ACC <- ACC + ~[m] + C. -/
def execSbcAM (m : MField) (s : State) : Result :=
  loadOp m s fun b => add8 s.cfg.ovSymmetric s.acc (~~~b) s.flagC

/-- `SBCM A,[m]` (R120): [m] <- ACC + ~[m] + C. -/
def execSbcm (m : MField) (s : State) : Result :=
  modifyOp m s fun b => add8 s.cfg.ovSymmetric s.acc (~~~b) s.flagC

/-- `DAA [m]` (R121): [m] <- ACC decimal adjusted; [m] is not read. -/
def execDaa (m : MField) (s : State) : Result :=
  storeOp m s (decimalAdjust s.acc s.flagAC s.flagC)

end Sys2Proof.Machine
end

