-- ==== Sys2Proof/Machine/Branch.lean ====
section
/-! DEFINITION. The meanings of the jump, skip, call and return instructions (`46_branch.md` rules R180 to R194): no
flag. PC is already the address of the next word (`00_scope.md` rule R11). `s` is the state after the fetch increment.
-/

namespace Sys2Proof.Machine

/-- `JMP addr` (R181): PC <- addr, two cycles. -/
def execJmp (addr : AddrField) (s : State) : Result :=
  withTarget addr fun a => .next ((s.withPc a).tick 2)

/-- `SZ [m]` (R182): skip if the byte is 00H. -/
def execSz (m : MField) (s : State) : Result :=
  testSkip m s fun b => decide (b = 0#8)

/-- `SZA [m]` (R183): ACC <- [m] in both cases (C14, D26), skip if it is 00H. -/
def execSza (m : MField) (s : State) : Result :=
  loadSkip m s id

/-- `SZ [m].i` (R184): skip if the bit is 0. -/
def execSzBit (m : MField) (i : BitVec 3) (s : State) : Result :=
  testSkip m s fun b => !b.getLsbD i.toNat

/-- `SNZ [m].i` (R185): skip if the bit is 1. -/
def execSnzBit (m : MField) (i : BitVec 3) (s : State) : Result :=
  testSkip m s fun b => b.getLsbD i.toNat

/-- `SIZ [m]` (R186): [m] <- [m] + 1, skip if the result is 00H. -/
def execSiz (m : MField) (s : State) : Result :=
  modifySkip m s inc8

/-- `SDZ [m]` (R187): [m] <- [m] - 1 (C15), skip if the result is 00H. -/
def execSdz (m : MField) (s : State) : Result :=
  modifySkip m s dec8

/-- `SIZA [m]` (R188): ACC <- [m] + 1, skip if the result is 00H. -/
def execSiza (m : MField) (s : State) : Result :=
  loadSkip m s inc8

/-- `SDZA [m]` (R189): ACC <- [m] - 1, skip if the result is 00H. -/
def execSdza (m : MField) (s : State) : Result :=
  loadSkip m s dec8

/-- `CALL addr` (R190): push, PC <- addr, two cycles. -/
def execCall (addr : AddrField) (s : State) : Result :=
  withTarget addr fun a => .next ((s.push.withPc a).tick 2)

/-- `RET` (R191): pop, two cycles. -/
def execRet (s : State) : Result :=
  withReturn s fun t => .next (t.tick 2)

/-- `RET A,x` (R192): pop, ACC <- x, two cycles. -/
def execRetAX (x : Byte) (s : State) : Result :=
  withReturn s fun t => .next ((t.withAcc x).tick 2)

/-- `RETI` (R194): as RET; the EMI it would set is no state of this part (R44, C9, D19, log 25). -/
def execReti (s : State) : Result :=
  withReturn s fun t => .next (t.tick 2)

end Sys2Proof.Machine
end

