-- ==== Sys2Proof/Machine/IncDec.lean ====
section
/-! DEFINITION. The meanings of the increment and decrement instructions (`42_incdec.md` rules R150 to R154): Z is the
only flag written. `s` is the state after the fetch increment. -/

namespace Sys2Proof.Machine

/-- `INCA [m]` (R151): ACC <- [m] + 1 (C6). -/
def execInca (m : MField) (s : State) : Result :=
  loadOp m s fun b => zeroFlag (inc8 b)

/-- `INC [m]` (R152): [m] <- [m] + 1. -/
def execInc (m : MField) (s : State) : Result :=
  modifyOp m s fun b => zeroFlag (inc8 b)

/-- `DECA [m]` (R153): ACC <- [m] - 1. -/
def execDeca (m : MField) (s : State) : Result :=
  loadOp m s fun b => zeroFlag (dec8 b)

/-- `DEC [m]` (R154): [m] <- [m] - 1. -/
def execDec (m : MField) (s : State) : Result :=
  modifyOp m s fun b => zeroFlag (dec8 b)

end Sys2Proof.Machine
end

