-- ==== Sys2Proof/Machine/Logic.lean ====
section
/-! DEFINITION. The meanings of the logic instructions (`41_logic.md` rules R130 to R141): Z is the only flag written.
`s` is the state after the fetch increment. -/

namespace Sys2Proof.Machine

/-- `AND A,[m]` (R131). -/
def execAndAM (m : MField) (s : State) : Result :=
  loadOp m s fun b => zeroFlag (s.acc &&& b)

/-- `OR A,[m]` (R132). -/
def execOrAM (m : MField) (s : State) : Result :=
  loadOp m s fun b => zeroFlag (s.acc ||| b)

/-- `XOR A,[m]` (R133). -/
def execXorAM (m : MField) (s : State) : Result :=
  loadOp m s fun b => zeroFlag (s.acc ^^^ b)

/-- `ANDM A,[m]` (R134): the result goes to [m] (C4). -/
def execAndm (m : MField) (s : State) : Result :=
  modifyOp m s fun b => zeroFlag (s.acc &&& b)

/-- `ORM A,[m]` (R135): the result goes to [m] (C4). -/
def execOrm (m : MField) (s : State) : Result :=
  modifyOp m s fun b => zeroFlag (s.acc ||| b)

/-- `XORM A,[m]` (R136). -/
def execXorm (m : MField) (s : State) : Result :=
  modifyOp m s fun b => zeroFlag (s.acc ^^^ b)

/-- `AND A,x` (R137). -/
def execAndAX (x : Byte) (s : State) : Result :=
  immediateOp s (zeroFlag (s.acc &&& x))

/-- `OR A,x` (R138). -/
def execOrAX (x : Byte) (s : State) : Result :=
  immediateOp s (zeroFlag (s.acc ||| x))

/-- `XOR A,x` (R139). -/
def execXorAX (x : Byte) (s : State) : Result :=
  immediateOp s (zeroFlag (s.acc ^^^ x))

/-- `CPL [m]` (R140): [m] <- ~[m] (C5). -/
def execCpl (m : MField) (s : State) : Result :=
  modifyOp m s fun b => zeroFlag (~~~b)

/-- `CPLA [m]` (R141): ACC <- ~[m]. -/
def execCpla (m : MField) (s : State) : Result :=
  loadOp m s fun b => zeroFlag (~~~b)

end Sys2Proof.Machine
end

