-- ==== Sys2Proof/Machine/Misc.lean ====
section
/-! DEFINITION. The meanings of the other instructions (`48_misc.md` rules R205 to R213). An instruction that clears
the watchdog leaves the count at 0; its own cycle is not counted (`60_exceptions.md` rule R237). `s` is the state
after the fetch increment. -/

namespace Sys2Proof.Machine

/-- `NOP` (R205): one cycle. -/
def execNop (s : State) : Result :=
  .next (s.tick 1)

/-- `CLR [m]` (R206): [m] <- 00H, not read, no flag. -/
def execClrM (m : MField) (s : State) : Result :=
  storeOp m s (noFlags 0x00#8)

/-- `SET [m]` (R207): [m] <- FFH, not read, no flag. -/
def execSetM (m : MField) (s : State) : Result :=
  storeOp m s (noFlags 0xFF#8)

/-- `CLR WDT` (R208): nothing with the watchdog disabled (D16); refused where the option selects the pair (D14). -/
def execClrWdt (s : State) : Result :=
  if s.cfg.wdtEn then
    match s.cfg.clrWdtTimes with
    | .one => .next s.clearWatchdog
    | .two => .refused .clrWdtGroupNotSelected
  else .next (s.tick 1)

/-- `CLR WDT1` (R209): W1 <- 1; with W2 set the pair is complete and clears WDT, PD, TO and both marks (D13). -/
def execClrWdt1 (s : State) : Result :=
  if s.cfg.wdtEn then
    match s.cfg.clrWdtTimes with
    | .one => .refused .clrWdtGroupNotSelected
    | .two => if s.w2 then .next s.clearWatchdog.clearMarks else .next (s.mark1.tick 1)
  else .next (s.tick 1)

/-- `CLR WDT2` (R210): the mirror image of CLR WDT1. -/
def execClrWdt2 (s : State) : Result :=
  if s.cfg.wdtEn then
    match s.cfg.clrWdtTimes with
    | .one => .refused .clrWdtGroupNotSelected
    | .two => if s.w1 then .next s.clearWatchdog.clearMarks else .next (s.mark2.tick 1)
  else .next (s.tick 1)

/-- `SWAP [m]` (R211): the nibbles exchanged (C23), no flag. -/
def execSwap (m : MField) (s : State) : Result :=
  modifyOp m s fun b => noFlags (swapNibbles b)

/-- `SWAPA [m]` (R212). -/
def execSwapa (m : MField) (s : State) : Result :=
  loadOp m s fun b => noFlags (swapNibbles b)

/-- `HALT` (R213): PD <- 1, TO <- 0, WDT, W1, W2 <- 0, Halted <- 1, with or without the watchdog (D16). -/
def execHalt (s : State) : Result :=
  .next { s with flagPD := true, flagTO := false, wdt := 0, w1 := false, w2 := false, halted := true }

end Sys2Proof.Machine
end

