-- ==== Sys2Proof/Machine/Move.lean ====
section
/-! DEFINITION. The meanings of the data-move instructions (`44_move.md` rules R170 to R173) and the bit operations
(`45_bit.md` rules R175 to R177): no flag. `s` is the state after the fetch increment. -/

namespace Sys2Proof.Machine

/-- `MOV A,[m]` (R171). -/
def execMovAM (m : MField) (s : State) : Result :=
  loadOp m s noFlags

/-- `MOV [m],A` (R172): [m] is not read. -/
def execMovMemA (m : MField) (s : State) : Result :=
  storeOp m s (noFlags s.acc)

/-- `MOV A,x` (R173). -/
def execMovAX (x : Byte) (s : State) : Result :=
  immediateOp s (noFlags x)

/-- `CLR [m].i` (R176). -/
def execClrBit (m : MField) (i : BitVec 3) (s : State) : Result :=
  modifyOp m s fun b => noFlags (clearBit i b)

/-- `SET [m].i` (R177). -/
def execSetBit (m : MField) (i : BitVec 3) (s : State) : Result :=
  modifyOp m s fun b => noFlags (Sys2Proof.Machine.setBit i b)

end Sys2Proof.Machine
end

