-- ==== Sys2Proof/Machine/Rotate.lean ====
section
/-! DEFINITION. The meanings of the rotate instructions (`43_rotate.md` rules R160 to R168): no flag, or C alone
through the carry. `s` is the state after the fetch increment. -/

namespace Sys2Proof.Machine

/-- `RRA [m]` (R161). -/
def execRra (m : MField) (s : State) : Result :=
  loadOp m s fun b => noFlags (rotateRight b)

/-- `RR [m]` (R162). -/
def execRr (m : MField) (s : State) : Result :=
  modifyOp m s fun b => noFlags (rotateRight b)

/-- `RRCA [m]` (R163). -/
def execRrca (m : MField) (s : State) : Result :=
  loadOp m s fun b => rotateRightCarry s.flagC b

/-- `RRC [m]` (R164). -/
def execRrc (m : MField) (s : State) : Result :=
  modifyOp m s fun b => rotateRightCarry s.flagC b

/-- `RLA [m]` (R165). -/
def execRla (m : MField) (s : State) : Result :=
  loadOp m s fun b => noFlags (rotateLeft b)

/-- `RL [m]` (R166). -/
def execRl (m : MField) (s : State) : Result :=
  modifyOp m s fun b => noFlags (rotateLeft b)

/-- `RLCA [m]` (R167). -/
def execRlca (m : MField) (s : State) : Result :=
  loadOp m s fun b => rotateLeftCarry s.flagC b

/-- `RLC [m]` (R168). -/
def execRlc (m : MField) (s : State) : Result :=
  modifyOp m s fun b => rotateLeftCarry s.flagC b

end Sys2Proof.Machine
end

