-- ==== Sys2Proof/Machine/Table.lean ====
section
/-! DEFINITION. The meanings of the table-read instructions (`47_table.md` rules R200 to R202). The table address is
formed before anything is written. `s` is the state after the fetch increment. -/

namespace Sys2Proof.Machine

/-- `TABRDC [m]` (R201): from the page of the incremented PC (D4). -/
def execTabrdc (m : MField) (s : State) : Result :=
  tableRead m s (s.pc.extractLsb' 8 2 ++ s.tblp)

/-- `TABRDL [m]` (R202): from the last page, 300H to 3FFH. -/
def execTabrdl (m : MField) (s : State) : Result :=
  tableRead m s (0b11#2 ++ s.tblp)

end Sys2Proof.Machine
end

