-- ==== Sys2Proof/Machine/Dispatch.lean ====
section
/-! DEFINITION. The dispatch: each instruction's meaning. `exec i s` runs `i` in the state after the fetch increment
(`00_scope.md` rule R11, log 12). -/

namespace Sys2Proof.Machine

def exec (i : Instr) (s : State) : Host.Outcome State Fault Refusal :=
  match i with
  | .nop => Sys2Proof.Machine.execNop s
  | .clrWdt => Sys2Proof.Machine.execClrWdt s
  | .clrWdt1 => Sys2Proof.Machine.execClrWdt1 s
  | .halt => Sys2Proof.Machine.execHalt s
  | .ret => Sys2Proof.Machine.execRet s
  | .reti => Sys2Proof.Machine.execReti s
  | .clrWdt2 => Sys2Proof.Machine.execClrWdt2 s
  | .movMemA m => Sys2Proof.Machine.execMovMemA m s
  | .cpla m => Sys2Proof.Machine.execCpla m s
  | .cpl m => Sys2Proof.Machine.execCpl m s
  | .subAM m => Sys2Proof.Machine.execSubAM m s
  | .subm m => Sys2Proof.Machine.execSubm m s
  | .addAM m => Sys2Proof.Machine.execAddAM m s
  | .addm m => Sys2Proof.Machine.execAddm m s
  | .xorAM m => Sys2Proof.Machine.execXorAM m s
  | .xorm m => Sys2Proof.Machine.execXorm m s
  | .orAM m => Sys2Proof.Machine.execOrAM m s
  | .orm m => Sys2Proof.Machine.execOrm m s
  | .andAM m => Sys2Proof.Machine.execAndAM m s
  | .andm m => Sys2Proof.Machine.execAndm m s
  | .movAM m => Sys2Proof.Machine.execMovAM m s
  | .retAX x => Sys2Proof.Machine.execRetAX x s
  | .subAX x => Sys2Proof.Machine.execSubAX x s
  | .addAX x => Sys2Proof.Machine.execAddAX x s
  | .xorAX x => Sys2Proof.Machine.execXorAX x s
  | .orAX x => Sys2Proof.Machine.execOrAX x s
  | .andAX x => Sys2Proof.Machine.execAndAX x s
  | .movAX x => Sys2Proof.Machine.execMovAX x s
  | .sza m => Sys2Proof.Machine.execSza m s
  | .sz m => Sys2Proof.Machine.execSz m s
  | .swapa m => Sys2Proof.Machine.execSwapa m s
  | .swap m => Sys2Proof.Machine.execSwap m s
  | .sbcAM m => Sys2Proof.Machine.execSbcAM m s
  | .sbcm m => Sys2Proof.Machine.execSbcm m s
  | .adcAM m => Sys2Proof.Machine.execAdcAM m s
  | .adcm m => Sys2Proof.Machine.execAdcm m s
  | .inca m => Sys2Proof.Machine.execInca m s
  | .inc m => Sys2Proof.Machine.execInc m s
  | .deca m => Sys2Proof.Machine.execDeca m s
  | .dec m => Sys2Proof.Machine.execDec m s
  | .siza m => Sys2Proof.Machine.execSiza m s
  | .siz m => Sys2Proof.Machine.execSiz m s
  | .sdza m => Sys2Proof.Machine.execSdza m s
  | .sdz m => Sys2Proof.Machine.execSdz m s
  | .rla m => Sys2Proof.Machine.execRla m s
  | .rl m => Sys2Proof.Machine.execRl m s
  | .rra m => Sys2Proof.Machine.execRra m s
  | .rr m => Sys2Proof.Machine.execRr m s
  | .rlca m => Sys2Proof.Machine.execRlca m s
  | .rlc m => Sys2Proof.Machine.execRlc m s
  | .rrca m => Sys2Proof.Machine.execRrca m s
  | .rrc m => Sys2Proof.Machine.execRrc m s
  | .tabrdc m => Sys2Proof.Machine.execTabrdc m s
  | .tabrdl m => Sys2Proof.Machine.execTabrdl m s
  | .daa m => Sys2Proof.Machine.execDaa m s
  | .clrM m => Sys2Proof.Machine.execClrM m s
  | .setM m => Sys2Proof.Machine.execSetM m s
  | .call addr => Sys2Proof.Machine.execCall addr s
  | .jmp addr => Sys2Proof.Machine.execJmp addr s
  | .setBit m n => Sys2Proof.Machine.execSetBit m n s
  | .clrBit m n => Sys2Proof.Machine.execClrBit m n s
  | .snzBit m n => Sys2Proof.Machine.execSnzBit m n s
  | .szBit m n => Sys2Proof.Machine.execSzBit m n s

end Sys2Proof.Machine
end

