-- ==== Sys2Proof/Decode.lean ====
section
/-! DEFINITION. From words to instructions and back (`30_encoding.md` rules R92 to R97). `decode` and `encode` are the default
`Cfg.ENC` of R95 to R97, PRESUMED as a whole (log 1): the source gives no encoding but for the target of JMP and CALL,
instruction bits 9 to 0 (R92). `decodeUnder` and `encodeUnder` are the map of the ENC a configuration names (R94). -/

namespace Sys2Proof

/-- Why a word is no instruction. -/
inductive DecodeError where
  /-- The word lies in one of the ranges R97 leaves unmapped (D23). -/
  | unmappedWord
deriving DecidableEq, Repr

/-- Word bits 6 to 0, the data address `m` (R96). -/
def fieldM (w : Word14) : MField := w.extractLsb' 0 7

/-- Word bits 7 to 0, the immediate `x` (R96). -/
def fieldX (w : Word14) : Byte := w.extractLsb' 0 8

/-- Word bits 9 to 7, the bit number `i` (R96). -/
def fieldI (w : Word14) : BitVec 3 := w.extractLsb' 7 3

/-- Word bits 10 to 0, the program address with its eleventh bit (R92, R96). -/
def fieldAddr (w : Word14) : AddrField := w.extractLsb' 0 11

/-- The words 0000H to 007FH: the instructions without operand (R95). 0001H is CLR WDT or CLR WDT1 by mask option (log 2). -/
def decodeNoOperand (times : ClrWdtTimes) (w : Word14) : Except DecodeError Instr :=
  match w.toNat with
  | 0 => .ok .nop
  | 1 => match times with
    | .one => .ok .clrWdt
    | .two => .ok .clrWdt1
  | 2 => .ok .halt
  | 3 => .ok .ret
  | 4 => .ok .reti
  | 5 => .ok .clrWdt2
  | _ => .error .unmappedWord

/-- The words with bit 13 clear: bits 13 to 7 select the row of R95. -/
def decodeLow (times : ClrWdtTimes) (w : Word14) : Except DecodeError Instr :=
  match (w.extractLsb' 7 7).toNat with
  | 0b0000000 => decodeNoOperand times w
  | 0b0000001 => .ok (.movMemA (fieldM w))
  | 0b0000010 => .ok (.cpla (fieldM w))
  | 0b0000011 => .ok (.cpl (fieldM w))
  | 0b0000100 => .ok (.subAM (fieldM w))
  | 0b0000101 => .ok (.subm (fieldM w))
  | 0b0000110 => .ok (.addAM (fieldM w))
  | 0b0000111 => .ok (.addm (fieldM w))
  | 0b0001000 => .ok (.xorAM (fieldM w))
  | 0b0001001 => .ok (.xorm (fieldM w))
  | 0b0001010 => .ok (.orAM (fieldM w))
  | 0b0001011 => .ok (.orm (fieldM w))
  | 0b0001100 => .ok (.andAM (fieldM w))
  | 0b0001101 => .ok (.andm (fieldM w))
  | 0b0001110 => .ok (.movAM (fieldM w))
  | 0b0010010 | 0b0010011 => .ok (.retAX (fieldX w))
  | 0b0010100 | 0b0010101 => .ok (.subAX (fieldX w))
  | 0b0010110 | 0b0010111 => .ok (.addAX (fieldX w))
  | 0b0011000 | 0b0011001 => .ok (.xorAX (fieldX w))
  | 0b0011010 | 0b0011011 => .ok (.orAX (fieldX w))
  | 0b0011100 | 0b0011101 => .ok (.andAX (fieldX w))
  | 0b0011110 | 0b0011111 => .ok (.movAX (fieldX w))
  | 0b0100000 => .ok (.sza (fieldM w))
  | 0b0100001 => .ok (.sz (fieldM w))
  | 0b0100010 => .ok (.swapa (fieldM w))
  | 0b0100011 => .ok (.swap (fieldM w))
  | 0b0100100 => .ok (.sbcAM (fieldM w))
  | 0b0100101 => .ok (.sbcm (fieldM w))
  | 0b0100110 => .ok (.adcAM (fieldM w))
  | 0b0100111 => .ok (.adcm (fieldM w))
  | 0b0101000 => .ok (.inca (fieldM w))
  | 0b0101001 => .ok (.inc (fieldM w))
  | 0b0101010 => .ok (.deca (fieldM w))
  | 0b0101011 => .ok (.dec (fieldM w))
  | 0b0101100 => .ok (.siza (fieldM w))
  | 0b0101101 => .ok (.siz (fieldM w))
  | 0b0101110 => .ok (.sdza (fieldM w))
  | 0b0101111 => .ok (.sdz (fieldM w))
  | 0b0110000 => .ok (.rla (fieldM w))
  | 0b0110001 => .ok (.rl (fieldM w))
  | 0b0110010 => .ok (.rra (fieldM w))
  | 0b0110011 => .ok (.rr (fieldM w))
  | 0b0110100 => .ok (.rlca (fieldM w))
  | 0b0110101 => .ok (.rlc (fieldM w))
  | 0b0110110 => .ok (.rrca (fieldM w))
  | 0b0110111 => .ok (.rrc (fieldM w))
  | 0b0111010 => .ok (.tabrdc (fieldM w))
  | 0b0111011 => .ok (.tabrdl (fieldM w))
  | 0b0111101 => .ok (.daa (fieldM w))
  | 0b0111110 => .ok (.clrM (fieldM w))
  | 0b0111111 => .ok (.setM (fieldM w))
  | _ => .error .unmappedWord

/-- The instruction a word means under the default ENC, given the mask option CLRWDT_TIMES (R95). Total; a word of R97's
ranges is rejected by name. A field outside R91's range is decoded as it stands and refused by the machine (R96). -/
def decode (times : ClrWdtTimes) (w : Word14) : Except DecodeError Instr :=
  match (w.extractLsb' 10 4).toNat with
  | 0b1000 | 0b1001 => .ok (.call (fieldAddr w))
  | 0b1010 | 0b1011 => .ok (.jmp (fieldAddr w))
  | 0b1100 => .ok (.setBit (fieldM w) (fieldI w))
  | 0b1101 => .ok (.clrBit (fieldM w) (fieldI w))
  | 0b1110 => .ok (.snzBit (fieldM w) (fieldI w))
  | 0b1111 => .ok (.szBit (fieldM w) (fieldI w))
  | _ => decodeLow times w

/-- The word of an instruction, from the patterns of R95. -/
def encode : Instr → Word14
  | .nop => 0b00000000000000#14
  | .clrWdt => 0b00000000000001#14
  | .clrWdt1 => 0b00000000000001#14
  | .halt => 0b00000000000010#14
  | .ret => 0b00000000000011#14
  | .reti => 0b00000000000100#14
  | .clrWdt2 => 0b00000000000101#14
  | .movMemA m => 0b0000001#7 ++ m
  | .cpla m => 0b0000010#7 ++ m
  | .cpl m => 0b0000011#7 ++ m
  | .subAM m => 0b0000100#7 ++ m
  | .subm m => 0b0000101#7 ++ m
  | .addAM m => 0b0000110#7 ++ m
  | .addm m => 0b0000111#7 ++ m
  | .xorAM m => 0b0001000#7 ++ m
  | .xorm m => 0b0001001#7 ++ m
  | .orAM m => 0b0001010#7 ++ m
  | .orm m => 0b0001011#7 ++ m
  | .andAM m => 0b0001100#7 ++ m
  | .andm m => 0b0001101#7 ++ m
  | .movAM m => 0b0001110#7 ++ m
  | .retAX x => 0b001001#6 ++ x
  | .subAX x => 0b001010#6 ++ x
  | .addAX x => 0b001011#6 ++ x
  | .xorAX x => 0b001100#6 ++ x
  | .orAX x => 0b001101#6 ++ x
  | .andAX x => 0b001110#6 ++ x
  | .movAX x => 0b001111#6 ++ x
  | .sza m => 0b0100000#7 ++ m
  | .sz m => 0b0100001#7 ++ m
  | .swapa m => 0b0100010#7 ++ m
  | .swap m => 0b0100011#7 ++ m
  | .sbcAM m => 0b0100100#7 ++ m
  | .sbcm m => 0b0100101#7 ++ m
  | .adcAM m => 0b0100110#7 ++ m
  | .adcm m => 0b0100111#7 ++ m
  | .inca m => 0b0101000#7 ++ m
  | .inc m => 0b0101001#7 ++ m
  | .deca m => 0b0101010#7 ++ m
  | .dec m => 0b0101011#7 ++ m
  | .siza m => 0b0101100#7 ++ m
  | .siz m => 0b0101101#7 ++ m
  | .sdza m => 0b0101110#7 ++ m
  | .sdz m => 0b0101111#7 ++ m
  | .rla m => 0b0110000#7 ++ m
  | .rl m => 0b0110001#7 ++ m
  | .rra m => 0b0110010#7 ++ m
  | .rr m => 0b0110011#7 ++ m
  | .rlca m => 0b0110100#7 ++ m
  | .rlc m => 0b0110101#7 ++ m
  | .rrca m => 0b0110110#7 ++ m
  | .rrc m => 0b0110111#7 ++ m
  | .tabrdc m => 0b0111010#7 ++ m
  | .tabrdl m => 0b0111011#7 ++ m
  | .daa m => 0b0111101#7 ++ m
  | .clrM m => 0b0111110#7 ++ m
  | .setM m => 0b0111111#7 ++ m
  | .call addr => 0b100#3 ++ addr
  | .jmp addr => 0b101#3 ++ addr
  | .setBit m i => 0b1100#4 ++ i ++ m
  | .clrBit m i => 0b1101#4 ++ i ++ m
  | .snzBit m i => 0b1110#4 ++ i ++ m
  | .szBit m i => 0b1111#4 ++ i ++ m

/-- The mask option under which a word means this instruction: `CLR WDT` and `CLR WDT1` share 0001H (R95, log 2), every other
instruction is selected under both settings. -/
def Instr.selectedBy (times : ClrWdtTimes) : Instr → Bool
  | .clrWdt => decide (times = .one)
  | .clrWdt1 => decide (times = .two)
  | .nop => true
  | .halt => true
  | .ret => true
  | .reti => true
  | .clrWdt2 => true
  | .movMemA _ => true
  | .cpla _ => true
  | .cpl _ => true
  | .subAM _ => true
  | .subm _ => true
  | .addAM _ => true
  | .addm _ => true
  | .xorAM _ => true
  | .xorm _ => true
  | .orAM _ => true
  | .orm _ => true
  | .andAM _ => true
  | .andm _ => true
  | .movAM _ => true
  | .retAX _ => true
  | .subAX _ => true
  | .addAX _ => true
  | .xorAX _ => true
  | .orAX _ => true
  | .andAX _ => true
  | .movAX _ => true
  | .sza _ => true
  | .sz _ => true
  | .swapa _ => true
  | .swap _ => true
  | .sbcAM _ => true
  | .sbcm _ => true
  | .adcAM _ => true
  | .adcm _ => true
  | .inca _ => true
  | .inc _ => true
  | .deca _ => true
  | .dec _ => true
  | .siza _ => true
  | .siz _ => true
  | .sdza _ => true
  | .sdz _ => true
  | .rla _ => true
  | .rl _ => true
  | .rra _ => true
  | .rr _ => true
  | .rlca _ => true
  | .rlc _ => true
  | .rrca _ => true
  | .rrc _ => true
  | .tabrdc _ => true
  | .tabrdl _ => true
  | .daa _ => true
  | .clrM _ => true
  | .setM _ => true
  | .call _ => true
  | .jmp _ => true
  | .setBit _ _ => true
  | .clrBit _ _ => true
  | .snzBit _ _ => true
  | .szBit _ _ => true

/-! ## The ENC of a configuration -/

/-- The address of JMP and CALL is bits 9 to 0 of the word: the one thing the source says of every encoding (R92). -/
def targetIsWordBits (w : Word14) (i : Instr) : Bool :=
  match i with
  | .call addr | .jmp addr => decide (addr.extractLsb' 0 10 = w.extractLsb' 0 10)
  | .nop | .clrWdt | .clrWdt1 | .halt | .ret | .reti | .clrWdt2 | .movMemA _ | .cpla _ | .cpl _ | .subAM _ | .subm _
  | .addAM _ | .addm _ | .xorAM _ | .xorm _ | .orAM _ | .orm _ | .andAM _ | .andm _ | .movAM _ | .retAX _ | .subAX _
  | .addAX _ | .xorAX _ | .orAX _ | .andAX _ | .movAX _ | .sza _ | .sz _ | .swapa _ | .swap _ | .sbcAM _ | .sbcm _
  | .adcAM _ | .adcm _ | .inca _ | .inc _ | .deca _ | .dec _ | .siza _ | .siz _ | .sdza _ | .sdz _ | .rla _ | .rl _
  | .rra _ | .rr _ | .rlca _ | .rlc _ | .rrca _ | .rrc _ | .tabrdc _ | .tabrdl _ | .daa _ | .clrM _ | .setM _
  | .setBit _ _ | .clrBit _ _ | .snzBit _ _ | .szBit _ _ => true

/-- The instruction a listed ENC gives a word: that of the first row for the word. A row that breaks R92 is no row, and a word
without a row is no instruction (log 1). -/
def decodeListed : List (Word14 × Instr) → Word14 → Except DecodeError Instr
  | [], _ => .error .unmappedWord
  | (v, i) :: rest, w => if v = w ∧ targetIsWordBits v i = true then .ok i else decodeListed rest w

/-- `decode` of `Cfg.ENC` (R94): the instruction a word means on a chip with these options. -/
def decodeUnder (cfg : Cfg) (w : Word14) : Except DecodeError Instr :=
  match cfg.enc with
  | .defaultTable => decode cfg.clrWdtTimes w
  | .listed rows => decodeListed rows w

/-- A listed ENC decodes this word to this instruction. -/
def decodesTo (rows : List (Word14 × Instr)) (w : Word14) (i : Instr) : Bool :=
  match decodeListed rows w with
  | .ok j => decide (j = i)
  | .error _ => false

/-- `encode` of `Cfg.ENC`, the inverse of `decodeUnder` on its range (R94); an instruction no word means has no word. Where a
listed ENC gives one instruction several words, it is the first of them in the list (DESIGN CHOICE, log 1). -/
def encodeUnder (cfg : Cfg) (i : Instr) : Option Word14 :=
  match cfg.enc with
  | .defaultTable => if i.selectedBy cfg.clrWdtTimes then some (encode i) else none
  | .listed rows => (rows.find? fun row => decodesTo rows row.1 i).map Prod.fst

/-- The instruction the decoder reads from the opcode-table word `w` of `nbits` bits: one 14-bit word, under the default ENC
with the one-instruction option of `Cfg.standard` for the shared word 0001H (log 2). A number with a bit above bit 13 is no
word. -/
def decodeTableWord (nbits w : Nat) : Option Instr :=
  if w % 2 ^ nbits < 2 ^ 14 then
    match decodeUnder Cfg.standard (BitVec.ofNat 14 (w % 2 ^ nbits)) with
    | .ok i => some i
    | .error _ => none
  else none

end Sys2Proof
end

