-- ==== Sys2Proof/Machine/Fetch.lean ====
section
/-! DEFINITION. Fetching the next instruction (`00_scope.md` rule R11) and placing one in ROM. -/

namespace Sys2Proof.Machine

/-- `decode(PRead(PC))` under the chip's own ENC and mask options (R11, `30_encoding.md` rules R94, R95). -/
def State.fetch (s : State) : Except DecodeError Instr := decodeUnder s.cfg (s.pread s.pc)

/-- The refusal of a word that is no instruction (`30_encoding.md` rule R97, D23). -/
def refusalOfDecode : DecodeError → Refusal
  | .unmappedWord => .unmappedWord

/-- The state with a word at the address of the next fetch, and the core running. -/
def State.placeWord (s : State) (w : Word14) : State :=
  { s with rom := Memory.write s.rom s.pc.toNat w, halted := false }

end Sys2Proof.Machine
end

