-- ==== Sys2Proof/Machine/Step.lean ====
section
/-! DEFINITION. One step of the machine (`00_scope.md` rule R11; `60_exceptions.md` rules R223, R237, R246). -/

namespace Sys2Proof.Machine

/-- One step. Running: fetch, increment PC, execute, then the instruction boundary. Halted: the boundary alone, in which the
core does nothing (R246). DESIGN CHOICE, unsafe (log 37): instruction and boundary are one step, so an output-latch value that
an instruction writes is in no state of the run if a reset acts at that instruction's boundary; R257 gives no instant at which
the latches are sampled. -/
def step (s : State) : Host.Outcome State Fault Refusal :=
  if s.halted then .next s.boundary
  else
    match s.fetch with
    | .ok i => mapNext State.boundary (exec i s.advance)
    | .error e => .refused (refusalOfDecode e)

/-- The state with the opcode-table word `w` of `nbits` bits where the next step fetches: at PC in ROM, the core not halted. A
ROM word has 14 bits. The program is mask ROM, fixed at manufacture; this stands for that (log 4). -/
def State.withFetchWord (s : State) (nbits w : Nat) : State := s.placeWord (BitVec.ofNat 14 (w % 2 ^ nbits))

end Sys2Proof.Machine
end

