-- ==== Sys2Proof/Machine/Pins.lean ====
section
/-! DEFINITION. What the environment sees of the chip (`60_exceptions.md` rules R250, R252, R257): the driven port lines, the
pin PC0/REM and the pin OSC2, each a function of the state. The wave on a pin is outside the model (log 32). -/

namespace Sys2Proof.Machine

/-- A line of PA or PB as the chip leaves it: driven low by its NMOS transistor, or released to its pull-up (R257). -/
inductive Line where
  | drivenLow | released
deriving DecidableEq, Repr

/-- PA.i: driven low where the latch bit is 0 (`10_state.md` rule R36). -/
def State.lineA (s : State) (i : BitVec 3) : Line := if s.paL.getLsbD i.toNat then .released else .drivenLow

/-- PB.i: PB0 and PB1 as a line of PA, PB2 to PB7 input only (`10_state.md` rule R37). -/
def State.lineB (s : State) (i : BitVec 3) : Line :=
  if i.toNat < 2 && !s.pbL.getLsbD i.toNat then .drivenLow else .released

/-- The pin PC0/REM (R250). -/
inductive RemPin where
  | low
  | high
  /-- The carrier wave: the instruction clock divided by `divisor`, with its duty. -/
  | carrier (divisor : Nat) (duty : Duty)
  /-- The carrier enabled in HALT: its clock is stopped and the source states no level (R250, U19). -/
  | carrierStopped
deriving DecidableEq, Repr

/-- The factor m of mask option 6. -/
def carMValue : CarM → Nat
  | .two => 2
  | .three => 3

/-- The exponent n of mask option 6. -/
def carNValue : CarN → Nat
  | .n0 => 0
  | .n1 => 1
  | .n2 => 2
  | .n3 => 3

/-- m x 2^n, by which the instruction clock is divided (R250). -/
def carrierDivisor (cfg : Cfg) : Nat := carMValue cfg.carM * 2 ^ carNValue cfg.carN

/-- The duty of the carrier: 1/2 for 2, 4, 8, 16; 1/3 for 3; by mask option 7 for 6, 12, 24 (R250). -/
def carrierDuty (cfg : Cfg) : Duty :=
  match cfg.carM, cfg.carN with
  | .two, _ => .half
  | .three, .n0 => .third
  | .three, _ => cfg.carDuty

/-- The pin PC0/REM as a function of the state (R250). -/
def State.remPin (s : State) : RemPin :=
  match s.cfg.pc0Mode with
  | .level => if s.pc0L then .high else .low
  | .carrier =>
    if s.pc0L then .low
    else if s.halted then .carrierStopped
    else .carrier (carrierDivisor s.cfg) (carrierDuty s.cfg)

/-- The pin OSC2 (R252, R257, log 36). -/
inductive Osc2Pin where
  /-- The system clock divided by four. -/
  | clockDividedByFour
  /-- RC mode in HALT: the oscillator is stopped (R252), and the source states no level for the pin. -/
  | clockStopped
  /-- Crystal mode, of which R252 and R257 say nothing. DESIGN CHOICE (log 36): a name of its own, which claims neither a
  clock, a level nor the absence of one. -/
  | crystalMode
deriving DecidableEq, Repr

/-- In RC mode OSC2 carries the system clock divided by four while the oscillator runs (R252). That RC mode in HALT and crystal
mode have names of their own here is the model's choice, DESIGN CHOICE (log 36): the spec states nothing of the pin there. -/
def State.osc2Pin (s : State) : Osc2Pin :=
  match s.cfg.osc with
  | .rc => if s.halted then .clockStopped else .clockDividedByFour
  | .crystal => .crystalMode

end Sys2Proof.Machine
end

