-- ==== Sys2Proof/WellFormed.lean ====
section
/-! DEFINITION. Well-formed instructions: operands in the ranges of `30_encoding.md` rule R91. A field of the word can hold
more than the range (R96); such an instruction decodes and the machine refuses it by name (D1, D7, log 14). -/

namespace Sys2Proof

/-- `m` names a data address, 00H to 3FH (R91). -/
def MField.inRange (m : MField) : Bool := decide (m.toNat ≤ 0x3F)

/-- `addr` is a program address, 000H to 3FFH (R91). -/
def AddrField.inRange (addr : AddrField) : Bool := decide (addr.toNat ≤ 0x3FF)

/-- Every operand of the instruction is in the range of R91. `x` and `i` fill their fields exactly. -/
def Instr.wf : Instr → Bool
  | .nop => true
  | .clrWdt => true
  | .clrWdt1 => true
  | .halt => true
  | .ret => true
  | .reti => true
  | .clrWdt2 => true
  | .movMemA m => MField.inRange m
  | .cpla m => MField.inRange m
  | .cpl m => MField.inRange m
  | .subAM m => MField.inRange m
  | .subm m => MField.inRange m
  | .addAM m => MField.inRange m
  | .addm m => MField.inRange m
  | .xorAM m => MField.inRange m
  | .xorm m => MField.inRange m
  | .orAM m => MField.inRange m
  | .orm m => MField.inRange m
  | .andAM m => MField.inRange m
  | .andm m => MField.inRange m
  | .movAM m => MField.inRange m
  | .retAX _ => true
  | .subAX _ => true
  | .addAX _ => true
  | .xorAX _ => true
  | .orAX _ => true
  | .andAX _ => true
  | .movAX _ => true
  | .sza m => MField.inRange m
  | .sz m => MField.inRange m
  | .swapa m => MField.inRange m
  | .swap m => MField.inRange m
  | .sbcAM m => MField.inRange m
  | .sbcm m => MField.inRange m
  | .adcAM m => MField.inRange m
  | .adcm m => MField.inRange m
  | .inca m => MField.inRange m
  | .inc m => MField.inRange m
  | .deca m => MField.inRange m
  | .dec m => MField.inRange m
  | .siza m => MField.inRange m
  | .siz m => MField.inRange m
  | .sdza m => MField.inRange m
  | .sdz m => MField.inRange m
  | .rla m => MField.inRange m
  | .rl m => MField.inRange m
  | .rra m => MField.inRange m
  | .rr m => MField.inRange m
  | .rlca m => MField.inRange m
  | .rlc m => MField.inRange m
  | .rrca m => MField.inRange m
  | .rrc m => MField.inRange m
  | .tabrdc m => MField.inRange m
  | .tabrdl m => MField.inRange m
  | .daa m => MField.inRange m
  | .clrM m => MField.inRange m
  | .setM m => MField.inRange m
  | .call addr => AddrField.inRange addr
  | .jmp addr => AddrField.inRange addr
  | .setBit m _ => MField.inRange m
  | .clrBit m _ => MField.inRange m
  | .snzBit m _ => MField.inRange m
  | .szBit m _ => MField.inRange m

end Sys2Proof
end

