-- ==== Sys2Proof/Safety.lean ====
section
/-! DEFINITION. What counts as a sound state and a sound run, in the terms the statements use: the invariant, the launch
states, the refused cases, and what a write to data memory changes, each written from the rules and not from the meanings. -/

namespace Sys2Proof.Machine

/-! ## The invariant -/

/-- RAM and ROM in canonical form, each inside its address space (`20_memory.md` rule R60). -/
abbrev State.MemoryOk (s : State) : Prop := Memory.wf 0x20 0x40 s.ram = true ∧ Memory.wf 0x000 0x400 s.rom = true

/-- The watchdog between steps: below its period when enabled (`60_exceptions.md` rules R236, R237); when disabled never
advanced and never timed out (R239); the marks set by the pair only, never both at once (`48_misc.md` rules R209, R210). -/
abbrev State.WatchdogOk (s : State) : Prop :=
  (s.cfg.wdtEn = true → s.wdt < 2 ^ s.cfg.wdtN.toNat) ∧
  (s.cfg.wdtEn = false → s.wdt = 0 ∧ s.flagTO = false ∧ s.w1 = false ∧ s.w2 = false) ∧
  (s.cfg.clrWdtTimes = .one → s.w1 = false ∧ s.w2 = false) ∧
  (s.w1 = false ∨ s.w2 = false)

/-- The halted state as HALT leaves it (`48_misc.md` rule R213, `60_exceptions.md` rules R241, R245, R246). -/
abbrev State.HaltOk (s : State) : Prop :=
  s.halted = true → s.flagPD = true ∧ s.flagTO = false ∧ s.wdt = 0 ∧ s.w1 = false ∧ s.w2 = false

/-- The invariant of the machine between steps. -/
abbrev State.Inv (s : State) : Prop := s.MemoryOk ∧ s.WatchdogOk ∧ s.HaltOk

/-- A state a power-on can leave: what R226 fixes is fixed, everything it calls unknown is any value (`10_state.md` rule R48). -/
abbrev State.Launch (s : State) : Prop :=
  s.pc = 0x000#10 ∧ s.stkv = false ∧ s.wdt = 0 ∧ s.w1 = false ∧ s.w2 = false ∧ s.halted = false ∧
  s.paL = 0xFF#8 ∧ s.pbL = 0b11#2 ∧ s.pc0L = true ∧ s.flagTO = false ∧ s.flagPD = false

/-! ## Refused steps -/

/-- An `[m]` operand that is refused (R64), or else what the effective address decides. -/
def operandRefusal (m : MField) (s : State) (k : DAddr → Option Refusal) : Option Refusal :=
  if m.toNat > 0x3F then some .dataAddressAbove3FH else k (effectiveAddress m s)

/-- An instruction that writes a flag and `[m]` (`20_memory.md` rule R80 (d), D10). -/
def statusRefusal (m : MField) (s : State) : Option Refusal :=
  operandRefusal m s fun a => if a = 0x0A#6 then some .flagWriteToStatus else none

/-- SIZ and SDZ: both a skip and a load of PCL (D11). The byte read is PC[7:0]; `last` is the value that gives 00H. -/
def skipRefusal (m : MField) (s : State) (last : Nat) : Option Refusal :=
  operandRefusal m s fun a => if a = 0x06#6 ∧ s.pc.toNat % 256 = last then some .skipWithPclLoad else none

/-- JMP and CALL (D1). -/
def targetRefusal (addr : AddrField) : Option Refusal :=
  if addr.toNat > 0x3FF then some .programAddressAbove3FFH else none

/-- RET, RET A,x and RETI (D8). -/
def returnRefusal (s : State) : Option Refusal := if s.stkv then none else some .returnWithEmptyStack

/-- CLR WDT (`one`), CLR WDT1 and CLR WDT2 (`two`): the group not selected, while the watchdog is enabled (D14, D16). -/
def groupRefusal (group : ClrWdtTimes) (s : State) : Option Refusal :=
  if s.cfg.wdtEn = true ∧ s.cfg.clrWdtTimes ≠ group then some .clrWdtGroupNotSelected else none

/-- The refused cases of `95_test_vectors.md` B14, collected from the rules: "Nothing else is refused: every other instruction
completes in every state." -/
def refusalOf (i : Instr) (s : State) : Option Refusal :=
  match i with
  | .addm m | .adcm m | .subm m | .sbcm m | .daa m | .andm m | .orm m | .xorm m | .cpl m | .inc m | .dec m | .rlc m
  | .rrc m => statusRefusal m s
  | .siz m => skipRefusal m s 0xFF
  | .sdz m => skipRefusal m s 0x01
  | .movMemA m | .cpla m | .subAM m | .addAM m | .xorAM m | .orAM m | .andAM m | .movAM m | .sza m | .sz m | .swapa m
  | .swap m | .sbcAM m | .adcAM m | .inca m | .deca m | .siza m | .sdza m | .rla m | .rl m | .rra m | .rr m | .rlca m
  | .rrca m | .tabrdc m | .tabrdl m | .clrM m | .setM m | .setBit m _ | .clrBit m _ | .snzBit m _
  | .szBit m _ => operandRefusal m s fun _ => none
  | .jmp addr | .call addr => targetRefusal addr
  | .ret | .reti | .retAX _ => returnRefusal s
  | .clrWdt => groupRefusal .one s
  | .clrWdt1 | .clrWdt2 => groupRefusal .two s
  | .nop | .halt | .subAX _ | .addAX _ | .xorAX _ | .orAX _ | .andAX _ | .movAX _ => none

/-! ## What instructions change -/

/-- The watchdog count after n more instruction cycles (R237, R239). -/
def elapsed (s : State) (n : Nat) : Nat := s.wdt + (if s.cfg.wdtEn then n else 0)

/-- `t` is `s` after the byte `v` is written to data address `a` (`20_memory.md` rule R67) by an instruction of `n` cycles, one
more where `a` is PCL. Every other register, every other RAM cell, ROM, the configuration and the environment are as in `s`. -/
def StoredAt (n : Nat) (s t : State) (a : DAddr) (v : Byte) : Prop :=
  t.acc = (if a = 0x05#6 then v else s.acc) ∧
  t.mp.toNat = (if a = 0x01#6 then v.toNat % 64 else s.mp.toNat) ∧
  t.pc.toNat = (if a = 0x06#6 then s.pc.toNat / 256 * 256 + v.toNat else s.pc.toNat) ∧
  t.tblp = (if a = 0x07#6 then v else s.tblp) ∧
  t.flagC = (if a = 0x0A#6 then v.getLsbD 0 else s.flagC) ∧
  t.flagAC = (if a = 0x0A#6 then v.getLsbD 1 else s.flagAC) ∧
  t.flagZ = (if a = 0x0A#6 then v.getLsbD 2 else s.flagZ) ∧
  t.flagOV = (if a = 0x0A#6 then v.getLsbD 3 else s.flagOV) ∧
  t.paL = (if a = 0x12#6 then v else s.paL) ∧
  t.pbL.toNat = (if a = 0x14#6 then v.toNat % 4 else s.pbL.toNat) ∧
  t.pc0L = (if a = 0x16#6 then v.getLsbD 0 else s.pc0L) ∧
  (∀ b, t.cell b = if b = a.toNat ∧ 0x20 ≤ b then v else s.cell b) ∧
  t.wdt = elapsed s (n + if a = 0x06#6 then 1 else 0) ∧
  t.tblh = s.tblh ∧ t.stk = s.stk ∧ t.stkv = s.stkv ∧ t.flagPD = s.flagPD ∧ t.flagTO = s.flagTO ∧
  t.w1 = s.w1 ∧ t.w2 = s.w2 ∧ t.halted = s.halted ∧ t.cfg = s.cfg ∧ t.rom = s.rom ∧
  t.extPA = s.extPA ∧ t.extPB = s.extPB ∧ t.inputs = s.inputs

/-- The byte `r` and the four flags of `t` are those of the addition `a + b + cin` (`40_arithmetic.md` rule R110): C and AC
the carries, Z the zero test, OV two's-complement overflow, or with OV_SYMMETRIC false a carry into bit 7 and none out of it. -/
def SumOf (ovSymmetric : Bool) (a b : Byte) (cin : Bool) (r : Byte) (t : State) : Prop :=
  r.toNat = (a.toNat + b.toNat + cin.toNat) % 256 ∧
  (t.flagC = true ↔ 256 ≤ a.toNat + b.toNat + cin.toNat) ∧
  (t.flagAC = true ↔ 16 ≤ a.toNat % 16 + b.toNat % 16 + cin.toNat) ∧
  (t.flagZ = true ↔ r.toNat = 0) ∧
  (t.flagOV = true ↔
    if ovSymmetric then a.toInt + b.toInt + (cin.toNat : Int) < -128 ∨ 127 < a.toInt + b.toInt + (cin.toNat : Int)
    else 128 ≤ a.toNat % 128 + b.toNat % 128 + cin.toNat ∧ a.toNat + b.toNat + cin.toNat < 256)

/-- The byte `r` and the four flags of `t` are those of the subtraction `a - b - borrow` (R122): C set where there is no
borrow, AC where there is none out of the low nibble. -/
def DifferenceOf (ovSymmetric : Bool) (a b : Byte) (borrow : Bool) (r : Byte) (t : State) : Prop :=
  (r.toNat : Int) = ((a.toNat : Int) - b.toNat - borrow.toNat) % 256 ∧
  (t.flagC = true ↔ b.toNat + borrow.toNat ≤ a.toNat) ∧
  (t.flagAC = true ↔ b.toNat % 16 + borrow.toNat ≤ a.toNat % 16) ∧
  (t.flagZ = true ↔ r.toNat = 0) ∧
  (t.flagOV = true ↔
    if ovSymmetric then a.toInt - b.toInt - (borrow.toNat : Int) < -128 ∨ 127 < a.toInt - b.toInt - (borrow.toNat : Int)
    else b.toNat % 128 + borrow.toNat ≤ a.toNat % 128 ∧ a.toNat < b.toNat + borrow.toNat)

/-- `t` is `s` but for ACC, the four flags, and `n` instruction cycles on the watchdog. -/
def OnlyAccAndFlags (n : Nat) (s t : State) : Prop :=
  t = { s with
    acc := t.acc, flagC := t.flagC, flagAC := t.flagAC, flagZ := t.flagZ, flagOV := t.flagOV, wdt := elapsed s n }

/-! ## What instructions read, write and skip -/

/-- The operand field an instruction reads through `DRead`, if any (files 40 to 48: MOV [m],A, CLR [m], SET [m], DAA and the
table reads write `[m]` without reading it, `20_memory.md` rule R72). -/
def readOperand (i : Instr) : Option MField :=
  match i with
  | .cpla m | .cpl m | .subAM m | .subm m | .addAM m | .addm m | .xorAM m | .xorm m | .orAM m | .orm m | .andAM m
  | .andm m | .movAM m | .sza m | .sz m | .swapa m | .swap m | .sbcAM m | .sbcm m | .adcAM m | .adcm m | .inca m
  | .inc m | .deca m | .dec m | .siza m | .siz m | .sdza m | .sdz m | .rla m | .rl m | .rra m | .rr m | .rlca m
  | .rlc m | .rrca m | .rrc m | .setBit m _ | .clrBit m _ | .snzBit m _ | .szBit m _ => some m
  | .movMemA _ | .tabrdc _ | .tabrdl _ | .daa _ | .clrM _ | .setM _ | .jmp _ | .call _ | .ret | .reti | .retAX _
  | .clrWdt | .clrWdt1 | .clrWdt2 | .nop | .halt | .subAX _ | .addAX _ | .xorAX _ | .orAX _ | .andAX _ | .movAX _ => none

/-- The operand field an instruction writes through `DWrite`, if any. -/
def writtenOperand (i : Instr) : Option MField :=
  match i with
  | .movMemA m | .cpl m | .subm m | .addm m | .xorm m | .orm m | .andm m | .swap m | .sbcm m | .adcm m | .inc m | .dec m
  | .siz m | .sdz m | .rl m | .rr m | .rlc m | .rrc m | .tabrdc m | .tabrdl m | .daa m | .clrM m | .setM m | .setBit m _
  | .clrBit m _ => some m
  | .cpla _ | .subAM _ | .addAM _ | .xorAM _ | .orAM _ | .andAM _ | .movAM _ | .sza _ | .sz _ | .swapa _ | .sbcAM _
  | .adcAM _ | .inca _ | .deca _ | .siza _ | .sdza _ | .rla _ | .rra _ | .rlca _ | .rrca _ | .snzBit _ _ | .szBit _ _
  | .jmp _ | .call _ | .ret | .reti | .retAX _ | .clrWdt | .clrWdt1 | .clrWdt2 | .nop | .halt | .subAX _ | .addAX _
  | .xorAX _ | .orAX _ | .andAX _ | .movAX _ => none

/-- The eight conditional instructions, which may skip (`46_branch.md` rule R180). -/
def maySkip (i : Instr) : Bool :=
  match i with
  | .sz _ | .sza _ | .szBit _ _ | .snzBit _ _ | .siz _ | .sdz _ | .siza _ | .sdza _ => true
  | .movMemA _ | .cpl _ | .subm _ | .addm _ | .xorm _ | .orm _ | .andm _ | .swap _ | .sbcm _ | .adcm _ | .inc _ | .dec _
  | .rl _ | .rr _ | .rlc _ | .rrc _ | .tabrdc _ | .tabrdl _ | .daa _ | .clrM _ | .setM _ | .setBit _ _ | .clrBit _ _
  | .cpla _ | .subAM _ | .addAM _ | .xorAM _ | .orAM _ | .andAM _ | .movAM _ | .swapa _ | .sbcAM _ | .adcAM _ | .inca _
  | .deca _ | .rla _ | .rra _ | .rlca _ | .rrca _ | .jmp _ | .call _ | .ret | .reti | .retAX _ | .clrWdt | .clrWdt1
  | .clrWdt2 | .nop | .halt | .subAX _ | .addAX _ | .xorAX _ | .orAX _ | .andAX _ | .movAX _ => false

/-- A successful clearing of the watchdog by software (`10_state.md` rule R35): the instruction, or the completing one of the
pair, of the group the option selects, with the watchdog enabled (`48_misc.md` rules R208 to R210; D13, D14, D16). -/
def ClearsWatchdog (i : Instr) (s : State) : Prop :=
  s.cfg.wdtEn = true ∧
  ((i = .clrWdt ∧ s.cfg.clrWdtTimes = .one) ∨ (i = .clrWdt1 ∧ s.cfg.clrWdtTimes = .two ∧ s.w2 = true) ∨
    (i = .clrWdt2 ∧ s.cfg.clrWdtTimes = .two ∧ s.w1 = true))

/-- A byte of two decimal digits (`40_arithmetic.md` rule R121). -/
def IsBcd (b : Byte) : Prop := b.toNat % 16 ≤ 9 ∧ b.toNat / 16 ≤ 9

/-- The number two decimal digits stand for. -/
def bcdValue (b : Byte) : Nat := 10 * (b.toNat / 16) + b.toNat % 16

/-- The state with other outside levels on PA and PB. -/
def State.withLevels (s : State) (pa pb : Byte) : State := { s with extPA := pa, extPB := pb }

/-- The state of the same chip under another ENC (`30_encoding.md` rule R94). -/
def State.withEnc (s : State) (e : Enc) : State := { s with cfg := { s.cfg with enc := e } }

end Sys2Proof.Machine
end

