-- ==== Sys2Proof/Certificates/Slice0/Obligations.lean ====
section
/-! DEFINITION. The statements for the provers. `s` in a statement about `exec` is the state after the fetch increment
(`00_scope.md` rule R11): its PC is the instruction's address plus one. -/

open Sys2Proof Sys2Proof.Machine

/-! ## Encoding -/

/-- The model's choice (D1, log 1: the default ENC of `30_encoding.md` R95 is general knowledge; log 2: the shared word 0001H):
decoding an encoded instruction gives it back, with every operand at every value its field holds. -/
def Obligations.DecodeEncodeAgree : Prop :=
  ∀ (times : ClrWdtTimes) (i : Instr), i.selectedBy times = true → decode times (encode i) = .ok i

/-- The model's choice (D1, log 1, log 2): a word that decodes is the encoding of what it decodes to, so no bit of it is dropped. -/
def Obligations.EncodeDecodeAgree : Prop :=
  ∀ (times : ClrWdtTimes) (w : Word14) (i : Instr),
    decode times w = .ok i → encode i = w ∧ i.selectedBy times = true

/-- The model's choice (D1, D23, log 1, log 26): the words without an instruction are the four ranges of `30_encoding.md`
R97. -/
def Obligations.UnmappedWordRanges : Prop :=
  ∀ (times : ClrWdtTimes) (w : Word14),
    decode times w = .error .unmappedWord ↔
      (0x0006 ≤ w.toNat ∧ w.toNat ≤ 0x007F) ∨ (0x0780 ≤ w.toNat ∧ w.toNat ≤ 0x08FF) ∨
      (0x1C00 ≤ w.toNat ∧ w.toNat ≤ 0x1CFF) ∨ (0x1E00 ≤ w.toNat ∧ w.toNat ≤ 0x1E7F)

/-- The model's choice (log 1): words of `95_test_vectors.md` B12 decode as printed there. -/
def Obligations.SampleWordsDecode : Prop :=
  decode .one 0x0001#14 = .ok .clrWdt ∧ decode .two 0x0001#14 = .ok .clrWdt1 ∧
  decode .one 0x00BF#14 = .ok (.movMemA 0x3F#7) ∧ decode .one 0x0900#14 = .ok (.retAX 0x00#8) ∧
  decode .one 0x1E80#14 = .ok (.daa 0x00#7) ∧ decode .one 0x23FF#14 = .ok (.call 0x3FF#11) ∧
  decode .one 0x33BF#14 = .ok (.setBit 0x3F#7 7#3) ∧ decode .one 0x390A#14 = .ok (.snzBit 0x0A#7 2#3)

/-- `30_encoding.md` R92: the target of JMP and CALL is bits 9 to 0 of the instruction word, in order, whatever the ENC. -/
def Obligations.JumpTargetIsWordBits : Prop :=
  ∀ (s : State) (w : Word14) (i : Instr) (addr : AddrField),
    decodeUnder s.cfg w = .ok i → (i = .jmp addr ∨ i = .call addr) → addr.inRange = true →
    ∃ t, exec i s = .next t ∧ ∀ k, k < 10 → t.pc.getLsbD k = w.getLsbD k

/-- `30_encoding.md` R94 (ENC as a parameter is the spec's decision D1; its form, and which of several words `encode` gives,
log 1): under every ENC `encode` is an inverse of `decode` on its range, and the meanings do not depend on ENC (a CLR WDT of
the group not selected is refused under every ENC: D14, log 21). -/
def Obligations.EncodingIsAParameter : Prop :=
  (∀ (cfg : Cfg) (i : Instr) (w : Word14),
    (encodeUnder cfg i = some w → decodeUnder cfg w = .ok i) ∧
    (decodeUnder cfg w = .ok i → ∃ v, encodeUnder cfg i = some v)) ∧
  (∀ (e : Enc) (i : Instr) (s : State), exec i (s.withEnc e) = mapNext (fun t => t.withEnc e) (exec i s))

/-! ## The step -/

/-- `00_scope.md` R11 (that the instruction runs with the incremented PC is the spec's decision D4, log 12; the wrap of PC is
D3, log 11): the running machine fetches the word at PC, increments PC and executes the instruction the word decodes to under
its ENC, in range or not. That events are then examined
at an instruction boundary is `60_exceptions.md` R223, the spec's decision D17 (log 9), and not R11. The halted machine fetches
and executes nothing (R11, R246): its step, by the model's choice a step of the environment (D27, log 31), is the boundary
alone, at which a power-on, RES or a falling edge acts. -/
def Obligations.StepRunsDecodedInstruction : Prop :=
  (∀ (s : State) (i : Instr),
    s.halted = false → decodeUnder s.cfg (Memory.read s.rom s.pc.toNat) = .ok i →
    step s =
      match exec i { s with pc := BitVec.ofNat 10 (s.pc.toNat + 1) } with
      | .next t => .next t.boundary
      | .fault f => .fault f
      | .refused r => .refused r) ∧
  (∀ s : State, s.halted = true → step s = .next s.boundary)

/-- The spec's decision D23 (log 26): a fetched word that ENC maps to no instruction refuses the step, under the default ENC a
word of the four unmapped ranges, under another ENC (log 1) a word it does not list. -/
def Obligations.UnmappedWordIsRefused : Prop :=
  ∀ (s : State) (w : Word14), s.halted = false → Memory.read s.rom s.pc.toNat = w →
    (s.cfg.enc = .defaultTable →
      (0x0006 ≤ w.toNat ∧ w.toNat ≤ 0x007F) ∨ (0x0780 ≤ w.toNat ∧ w.toNat ≤ 0x08FF) ∨
        (0x1C00 ≤ w.toNat ∧ w.toNat ≤ 0x1CFF) ∨ (0x1E00 ≤ w.toNat ∧ w.toNat ≤ 0x1E7F) →
      step s = .refused .unmappedWord) ∧
    (∀ rows, s.cfg.enc = .listed rows → (∀ i, (w, i) ∉ rows) → step s = .refused .unmappedWord)

/-- `60_exceptions.md` R246: while halted, with no reset and no falling edge on an enabled PB line, nothing of the chip changes
(the pin levels and the list of inputs are the environment, log 7; the edge is one of the pin's level, log 10); with no
input left the machine stands for ever (D27). -/
def Obligations.HaltedCoreStandsStill : Prop :=
  ∀ s : State, s.halted = true →
    (s.currentInput.event = none →
      (∀ k, k < 8 → s.cfg.wake.getLsbD k = true → (s.pinB s.extPB).getLsbD k = true →
        (s.pinB s.currentInput.extPB).getLsbD k = true) →
      step s = .next { s with
        extPA := s.currentInput.extPA, extPB := s.currentInput.extPB, inputs := s.inputs.tail }) ∧
    (s.inputs = [] → step s = .next s)

/-- `60_exceptions.md` R247 (D25, log 27; the level is the pin's, log 10): a falling edge on an enabled PB line while halted
clears Halted and changes nothing else of the chip. -/
def Obligations.FallingEdgeWakes : Prop :=
  ∀ (s : State) (k : Nat), s.halted = true → s.currentInput.event = none → k < 8 → s.cfg.wake.getLsbD k = true →
    (s.pinB s.extPB).getLsbD k = true → (s.pinB s.currentInput.extPB).getLsbD k = false →
    step s = .next { s with
      halted := false, extPA := s.currentInput.extPA, extPB := s.currentInput.extPB, inputs := s.inputs.tail }

/-- The spec's decision D17 (`60_exceptions.md` R223, log 9): RES at a boundary is taken whatever the watchdog count is and
whatever edge comes with it. It is `res_halt` if the chip is halted when it arrives, else `res_normal` (R226). That it clears
STKV (D8, log 15), W1 and W2 (D13, log 20) and keeps RAM and STK (D18, log 24) are the spec's decisions too. -/
def Obligations.ResBeatsTimeoutAndWakeUp : Prop :=
  ∀ s : State, s.currentInput.event = some .resLow →
    s.boundary = { s with
      pc := 0x000#10, stkv := false, wdt := 0, w1 := false, w2 := false, halted := false
      paL := 0xFF#8, pbL := 0b11#2, pc0L := true
      flagTO := if s.halted then false else s.flagTO
      flagPD := if s.halted then true else s.flagPD
      extPA := s.currentInput.extPA, extPB := s.currentInput.extPB, inputs := s.inputs.tail }

/-- `60_exceptions.md` R226, R236, R237, R240: after an instruction that leaves the count at 2^WDT_N or more, the watchdog
resets the chip: PC = 000H, TO = 1, PD and everything else as the instruction left them. The spec's decisions in it: the
time-out at a count of 2^WDT_N (D15, log 22), STKV cleared (D8, log 15), W1 and W2 cleared (D13, log 20), RAM and STK kept
(D18, log 24), the time-out taken at the boundary where no other event comes (D17, log 9). -/
def Obligations.WatchdogTimeoutResets : Prop :=
  ∀ (s u : State) (i : Instr),
    s.halted = false → s.fetch = .ok i → exec i s.advance = .next u → u.halted = false → u.cfg.wdtEn = true →
    2 ^ u.cfg.wdtN.toNat ≤ u.wdt → u.currentInput.event = none →
    step s = .next { u with
      pc := 0x000#10, stkv := false, wdt := 0, w1 := false, w2 := false, halted := false
      paL := 0xFF#8, pbL := 0b11#2, pc0L := true, flagTO := true
      extPA := u.currentInput.extPA, extPB := u.currentInput.extPB, inputs := u.inputs.tail }

/-- `60_exceptions.md` R237, R239, R241 (decisions D15, D16; log 22, log 23): below the period, while halted, or with the
watchdog disabled there is no time-out. At such a boundary of the running chip nothing of the chip changes, and a falling edge
on a PB line does nothing (R247, D25, log 27); only the environment moves on (log 7). -/
def Obligations.NoTimeoutBelowPeriod : Prop :=
  ∀ s : State, s.currentInput.event = none →
    ((s.wdt < 2 ^ s.cfg.wdtN.toNat ∨ s.halted = true ∨ s.cfg.wdtEn = false) →
      s.boundary.pc = s.pc ∧ s.boundary.flagTO = s.flagTO ∧ s.boundary.flagPD = s.flagPD ∧ s.boundary.wdt = s.wdt ∧
      s.boundary.stkv = s.stkv ∧ s.boundary.paL = s.paL ∧ s.boundary.pbL = s.pbL ∧ s.boundary.pc0L = s.pc0L) ∧
    (s.halted = false → (s.wdt < 2 ^ s.cfg.wdtN.toNat ∨ s.cfg.wdtEn = false) →
      s.boundary = { s with
        extPA := s.currentInput.extPA, extPB := s.currentInput.extPB, inputs := s.inputs.tail })

/-! ## Resets -/

/-- `60_exceptions.md` R226 and the cause table of `70_reset_and_hazards.md` R262 (STKV, W1, W2 and what happens to RAM and STK
are the spec's decisions D8, D13, D18): what every reset sets, what it records in TO and PD, and that the warm resets leave
the registers, the flags, RAM and STK. -/
def Obligations.ResetTransition : Prop :=
  ∀ (kind : ResetKind) (s : State),
    ((s.takeReset kind).pc = 0x000#10 ∧ (s.takeReset kind).stkv = false ∧ (s.takeReset kind).wdt = 0 ∧
      (s.takeReset kind).w1 = false ∧ (s.takeReset kind).w2 = false ∧ (s.takeReset kind).halted = false ∧
      (s.takeReset kind).paL = 0xFF#8 ∧ (s.takeReset kind).pbL = 0b11#2 ∧ (s.takeReset kind).pc0L = true ∧
      (s.takeReset kind).cfg = s.cfg ∧ (s.takeReset kind).rom = s.rom) ∧
    ((s.takeReset kind).flagTO, (s.takeReset kind).flagPD) =
      (match kind with
        | .powerOn _ => (false, false)
        | .resNormal => (s.flagTO, s.flagPD)
        | .resHalt => (false, true)
        | .wdt => (true, s.flagPD)) ∧
    ((∀ u, kind ≠ .powerOn u) →
      (s.takeReset kind).acc = s.acc ∧ (s.takeReset kind).mp = s.mp ∧ (s.takeReset kind).tblp = s.tblp ∧
      (s.takeReset kind).tblh = s.tblh ∧ (s.takeReset kind).flagC = s.flagC ∧ (s.takeReset kind).flagAC = s.flagAC ∧
      (s.takeReset kind).flagZ = s.flagZ ∧ (s.takeReset kind).flagOV = s.flagOV ∧ (s.takeReset kind).ram = s.ram ∧
      (s.takeReset kind).stk = s.stk)

/-- `10_state.md` R46, R47: the reset state is one a power-on can leave. STKV = 0 (D8, log 15) and W1 = W2 = 0 (D13, log 20)
are the spec's decisions. What the spec calls unknown is not stated (log 6). -/
def Obligations.ResetStateIsALaunch : Prop := State.reset.Launch

/-- `60_exceptions.md` R226, `10_state.md` R48 (decisions D18, D24; log 8): a power-on leaves a launch state in which every
register and every RAM cell the spec calls unknown holds what the environment drew, whatever that is. In the launch state
STKV = 0 (D8, log 15) and W1 = W2 = 0 (D13, log 20) are the spec's decisions too. -/
def Obligations.PowerOnLeavesAnyValue : Prop :=
  ∀ (s : State) (u : PowerOnValues), s.currentInput.event = some (.powerOn u) →
    s.boundary.Launch ∧ s.boundary.acc = u.acc ∧ s.boundary.mp = u.mp ∧ s.boundary.tblp = u.tblp ∧
    s.boundary.tblh = u.tblh ∧ s.boundary.flagC = u.flagC ∧ s.boundary.flagAC = u.flagAC ∧ s.boundary.flagZ = u.flagZ ∧
    s.boundary.flagOV = u.flagOV ∧ s.boundary.stk = u.stk ∧
    (∀ k, k < 32 → k < u.ram.length → some (s.boundary.cell (0x20 + k)) = u.ram[k]?) ∧
    s.boundary.rom = s.rom ∧ s.boundary.cfg = s.cfg

/-! ## The adder -/

/-- `40_arithmetic.md` R110 (OV against its natural sense is the spec's decision D9, log 16): `Add8` gives the sum and its four
flags. -/
def Obligations.AdderGivesSumAndFlags : Prop :=
  ∀ (ovSymmetric : Bool) (a b : Byte) (cin : Bool) (s : State),
    SumOf ovSymmetric a b cin (add8 ovSymmetric a b cin).value (s.withFlags (add8 ovSymmetric a b cin).flags)

/-- `40_arithmetic.md` R110, R122 (D9, log 16): the adder on the one's complement is a subtraction, with C and AC meaning no
borrow. -/
def Obligations.AdderSubtracts : Prop :=
  ∀ (ovSymmetric : Bool) (a b : Byte) (cin : Bool) (s : State),
    DifferenceOf ovSymmetric a b (!cin) (add8 ovSymmetric a (~~~b) cin).value
      (s.withFlags (add8 ovSymmetric a (~~~b) cin).flags)

/-! ## Arithmetic -/

/-- `40_arithmetic.md` ADD A,[m]; ADC A,[m]; ADD A,x (OV by D9, log 16): the sum in ACC, its flags, one cycle, nothing else. -/
def Obligations.AdditionsToAcc : Prop :=
  ∀ (m : MField) (x : Byte) (s : State),
    (m.toNat ≤ 0x3F →
      (∃ t, exec (.addAM m) s = .next t ∧ OnlyAccAndFlags 1 s t ∧
        SumOf s.cfg.ovSymmetric s.acc (dread s (effectiveAddress m s)) false t.acc t) ∧
      (∃ t, exec (.adcAM m) s = .next t ∧ OnlyAccAndFlags 1 s t ∧
        SumOf s.cfg.ovSymmetric s.acc (dread s (effectiveAddress m s)) s.flagC t.acc t)) ∧
    (∃ t, exec (.addAX x) s = .next t ∧ OnlyAccAndFlags 1 s t ∧ SumOf s.cfg.ovSymmetric s.acc x false t.acc t)

/-- `40_arithmetic.md` ADDM and ADCM A,[m] (OV by D9, log 16; a destination STATUS is refused, see
`FlagWriteToStatusIsRefused`): the sum in [m], its flags, nothing else. -/
def Obligations.AdditionsToMemory : Prop :=
  ∀ (m : MField) (s : State), m.toNat ≤ 0x3F → effectiveAddress m s ≠ 0x0A#6 →
    (∃ t r, exec (.addm m) s = .next t ∧
      SumOf s.cfg.ovSymmetric s.acc (dread s (effectiveAddress m s)) false r t ∧
      StoredAt 1 { s with flagC := t.flagC, flagAC := t.flagAC, flagZ := t.flagZ, flagOV := t.flagOV } t
        (effectiveAddress m s) r) ∧
    (∃ t r, exec (.adcm m) s = .next t ∧
      SumOf s.cfg.ovSymmetric s.acc (dread s (effectiveAddress m s)) s.flagC r t ∧
      StoredAt 1 { s with flagC := t.flagC, flagAC := t.flagAC, flagZ := t.flagZ, flagOV := t.flagOV } t
        (effectiveAddress m s) r)

/-- `40_arithmetic.md` SUB A,[m]; SBC A,[m]; SUB A,x (OV by D9, log 16): the difference in ACC, its flags, one cycle. -/
def Obligations.SubtractionsToAcc : Prop :=
  ∀ (m : MField) (x : Byte) (s : State),
    (m.toNat ≤ 0x3F →
      (∃ t, exec (.subAM m) s = .next t ∧ OnlyAccAndFlags 1 s t ∧
        DifferenceOf s.cfg.ovSymmetric s.acc (dread s (effectiveAddress m s)) false t.acc t) ∧
      (∃ t, exec (.sbcAM m) s = .next t ∧ OnlyAccAndFlags 1 s t ∧
        DifferenceOf s.cfg.ovSymmetric s.acc (dread s (effectiveAddress m s)) (!s.flagC) t.acc t)) ∧
    (∃ t, exec (.subAX x) s = .next t ∧ OnlyAccAndFlags 1 s t ∧
      DifferenceOf s.cfg.ovSymmetric s.acc x false t.acc t)

/-- `40_arithmetic.md` SUBM and SBCM A,[m] (OV by D9, log 16; a destination STATUS is refused): ACC minus [m] in [m]. -/
def Obligations.SubtractionsToMemory : Prop :=
  ∀ (m : MField) (s : State), m.toNat ≤ 0x3F → effectiveAddress m s ≠ 0x0A#6 →
    (∃ t r, exec (.subm m) s = .next t ∧
      DifferenceOf s.cfg.ovSymmetric s.acc (dread s (effectiveAddress m s)) false r t ∧
      StoredAt 1 { s with flagC := t.flagC, flagAC := t.flagAC, flagZ := t.flagZ, flagOV := t.flagOV } t
        (effectiveAddress m s) r) ∧
    (∃ t r, exec (.sbcm m) s = .next t ∧
      DifferenceOf s.cfg.ovSymmetric s.acc (dread s (effectiveAddress m s)) (!s.flagC) r t ∧
      StoredAt 1 { s with flagC := t.flagC, flagAC := t.flagAC, flagZ := t.flagZ, flagOV := t.flagOV } t
        (effectiveAddress m s) r)

/-- `40_arithmetic.md` R121 on every input (U14, log 34; a destination STATUS is refused): the adjusted ACC in [m]. `low` and
`high` say that a nibble is adjusted, `carry` is the internal AC1. Of the flags only C is written, and only ever to 1. -/
def Obligations.DaaStoresAdjustedAcc : Prop :=
  ∀ (m : MField) (s : State), m.toNat ≤ 0x3F → effectiveAddress m s ≠ 0x0A#6 →
    ∀ (low high : Bool) (carry : Nat),
      (low = true ↔ 9 < s.acc.toNat % 16 ∨ s.flagAC = true) →
      carry = (if low = true ∧ s.flagAC = false then 1 else 0) →
      (high = true ↔ 9 < s.acc.toNat / 16 + carry ∨ s.flagC = true) →
      ∃ t r, exec (.daa m) s = .next t ∧
        r.toNat % 16 = (s.acc.toNat % 16 + if low then 6 else 0) % 16 ∧
        r.toNat / 16 = (s.acc.toNat / 16 + carry + if high then 6 else 0) % 16 ∧
        StoredAt 1 { s with flagC := high || s.flagC } t (effectiveAddress m s) r

/-- What `40_arithmetic.md` R121 is for: after an addition with carry of two decimal bytes, DAA gives the decimal sum and its
carry. The destination here is ACC, data address 05H. -/
def Obligations.DaaCorrectsDecimalSum : Prop :=
  ∀ (m : MField) (s : State), m.toNat ≤ 0x3F → IsBcd s.acc → IsBcd (dread s (effectiveAddress m s)) →
    ∃ t u, exec (.adcAM m) s = .next t ∧ exec (.daa 0x05#7) t = .next u ∧ IsBcd u.acc ∧
      bcdValue u.acc =
        (bcdValue s.acc + bcdValue (dread s (effectiveAddress m s)) + s.flagC.toNat) % 100 ∧
      (u.flagC = true ↔ 100 ≤ bcdValue s.acc + bcdValue (dread s (effectiveAddress m s)) + s.flagC.toNat)

/-! ## Logic, increment, rotate -/

/-- `41_logic.md` R130 and the operations of its eleven instructions: bitwise on 8 bits, Z the only flag, one cycle and one more
where [m] is PCL. A destination STATUS is refused (D10, see `FlagWriteToStatusIsRefused`). -/
def Obligations.LogicInstructions : Prop :=
  ∀ (m : MField) (x : Byte) (s : State) (f : Bool → Bool → Bool),
    (∀ (i : Instr) (b : Byte),
      (i = .andAX x ∧ b = x ∧ f = (fun p q => p && q)) ∨ (i = .orAX x ∧ b = x ∧ f = (fun p q => p || q)) ∨
      (i = .xorAX x ∧ b = x ∧ f = (fun p q => p != q)) ∨
      (m.toNat ≤ 0x3F ∧ b = dread s (effectiveAddress m s) ∧
        ((i = .andAM m ∧ f = (fun p q => p && q)) ∨ (i = .orAM m ∧ f = (fun p q => p || q)) ∨
          (i = .xorAM m ∧ f = (fun p q => p != q)) ∨ (i = .cpla m ∧ f = (fun _ q => !q)))) →
      ∃ t, exec i s = .next t ∧ (∀ k, k < 8 → t.acc.getLsbD k = f (s.acc.getLsbD k) (b.getLsbD k)) ∧
        t = { s with acc := t.acc, flagZ := decide (t.acc = 0#8), wdt := elapsed s 1 }) ∧
    (∀ i : Instr, m.toNat ≤ 0x3F → effectiveAddress m s ≠ 0x0A#6 →
      (i = .andm m ∧ f = (fun p q => p && q)) ∨ (i = .orm m ∧ f = (fun p q => p || q)) ∨
      (i = .xorm m ∧ f = (fun p q => p != q)) ∨ (i = .cpl m ∧ f = (fun _ q => !q)) →
      ∃ t r, exec i s = .next t ∧
        (∀ k, k < 8 →
          r.getLsbD k = f (s.acc.getLsbD k) ((dread s (effectiveAddress m s)).getLsbD k)) ∧
        StoredAt 1 { s with flagZ := decide (r = 0#8) } t (effectiveAddress m s) r)

/-- `42_incdec.md` R150 and its four instructions: the operand plus or minus 1 modulo 256, Z the only flag. A destination STATUS
is refused (D10). -/
def Obligations.IncrementAndDecrement : Prop :=
  ∀ (m : MField) (s : State), m.toNat ≤ 0x3F →
    (∀ (i : Instr) (d : Nat), (i = .inca m ∧ d = 1) ∨ (i = .deca m ∧ d = 255) →
      ∃ t, exec i s = .next t ∧ t.acc.toNat = ((dread s (effectiveAddress m s)).toNat + d) % 256 ∧
        t = { s with acc := t.acc, flagZ := decide (t.acc = 0#8), wdt := elapsed s 1 }) ∧
    (∀ (i : Instr) (d : Nat), effectiveAddress m s ≠ 0x0A#6 → (i = .inc m ∧ d = 1) ∨ (i = .dec m ∧ d = 255) →
      ∃ t r, exec i s = .next t ∧ r.toNat = ((dread s (effectiveAddress m s)).toNat + d) % 256 ∧
        StoredAt 1 { s with flagZ := decide (r = 0#8) } t (effectiveAddress m s) r)

/-- `43_rotate.md` R160, the four plain rotates: each moves the 8 bits by one position and writes no flag. -/
def Obligations.RotatesWithoutCarry : Prop :=
  ∀ (m : MField) (s : State), m.toNat ≤ 0x3F →
    (∀ (i : Instr) (d : Nat), (i = .rra m ∧ d = 1) ∨ (i = .rla m ∧ d = 7) →
      ∃ t, exec i s = .next t ∧
        (∀ k, k < 8 → t.acc.getLsbD k = (dread s (effectiveAddress m s)).getLsbD ((k + d) % 8)) ∧
        t = { s with acc := t.acc, wdt := elapsed s 1 }) ∧
    (∀ (i : Instr) (d : Nat), (i = .rr m ∧ d = 1) ∨ (i = .rl m ∧ d = 7) →
      ∃ t r, exec i s = .next t ∧
        (∀ k, k < 8 → r.getLsbD k = (dread s (effectiveAddress m s)).getLsbD ((k + d) % 8)) ∧
        StoredAt 1 s t (effectiveAddress m s) r)

/-- `43_rotate.md` R160, the four rotates through the carry: the 9 bits of operand and C move by one position, C is the only
flag written. A destination STATUS is refused (D10). -/
def Obligations.RotatesThroughCarry : Prop :=
  ∀ (m : MField) (s : State) (v : Byte) (nine : BitVec 9),
    m.toNat ≤ 0x3F → v = dread s (effectiveAddress m s) → nine = BitVec.ofBool s.flagC ++ v →
    (∀ (i : Instr) (d : Nat), (i = .rrca m ∧ d = 1) ∨ (i = .rlca m ∧ d = 8) →
      ∃ t, exec i s = .next t ∧ (∀ k, k < 8 → t.acc.getLsbD k = nine.getLsbD ((k + d) % 9)) ∧
        t = { s with acc := t.acc, flagC := nine.getLsbD ((8 + d) % 9), wdt := elapsed s 1 }) ∧
    (∀ (i : Instr) (d : Nat), effectiveAddress m s ≠ 0x0A#6 → (i = .rrc m ∧ d = 1) ∨ (i = .rlc m ∧ d = 8) →
      ∃ t r, exec i s = .next t ∧ (∀ k, k < 8 → r.getLsbD k = nine.getLsbD ((k + d) % 9)) ∧
        StoredAt 1 { s with flagC := nine.getLsbD ((8 + d) % 9) } t (effectiveAddress m s) r)

/-! ## Moves and bits -/

/-- `44_move.md` R170 to R173: one byte moved; no flag but where STATUS is the destination (R172). -/
def Obligations.Moves : Prop :=
  ∀ (m : MField) (x : Byte) (s : State),
    (m.toNat ≤ 0x3F →
      exec (.movAM m) s = .next { s with acc := dread s (effectiveAddress m s), wdt := elapsed s 1 } ∧
      (∃ t, exec (.movMemA m) s = .next t ∧ StoredAt 1 s t (effectiveAddress m s) s.acc)) ∧
    exec (.movAX x) s = .next { s with acc := x, wdt := elapsed s 1 }

/-- `45_bit.md` R175 to R177: the byte read, one bit forced, the byte written. -/
def Obligations.BitOperations : Prop :=
  ∀ (m : MField) (i : BitVec 3) (s : State), m.toNat ≤ 0x3F →
    (∃ t r, exec (.clrBit m i) s = .next t ∧
      (∀ k, k < 8 → r.getLsbD k =
        (if k = i.toNat then false else (dread s (effectiveAddress m s)).getLsbD k)) ∧
      StoredAt 1 s t (effectiveAddress m s) r) ∧
    (∃ t r, exec (.setBit m i) s = .next t ∧
      (∀ k, k < 8 → r.getLsbD k =
        (if k = i.toNat then true else (dread s (effectiveAddress m s)).getLsbD k)) ∧
      StoredAt 1 s t (effectiveAddress m s) r)

/-- `20_memory.md` R72, `70_reset_and_hazards.md` R272 (a low latch bit reads 0 by the spec's default of PORT_LOW_WINS, D12, log
19): SET [12H].i releases line i, and every other line whose pin is low gets latch 0. -/
def Obligations.PortBitWriteRewritesLatch : Prop :=
  ∀ (i : BitVec 3) (s : State), s.cfg.portLowWins = true →
    ∃ t, exec (.setBit 0x12#7 i) s = .next t ∧
      (∀ k, k < 8 → t.paL.getLsbD k = (decide (k = i.toNat) || (s.paL.getLsbD k && s.extPA.getLsbD k))) ∧
      t = { s with paL := t.paL, wdt := elapsed s 1 }

/-- `48_misc.md` R206, R207, R211, R212: CLR [m], SET [m], SWAP [m], SWAPA [m], no flag by themselves. -/
def Obligations.WholeByteClearSetSwap : Prop :=
  ∀ (m : MField) (s : State), m.toNat ≤ 0x3F →
    (∃ t, exec (.clrM m) s = .next t ∧ StoredAt 1 s t (effectiveAddress m s) 0x00#8) ∧
    (∃ t, exec (.setM m) s = .next t ∧ StoredAt 1 s t (effectiveAddress m s) 0xFF#8) ∧
    (∃ t r, exec (.swap m) s = .next t ∧
      r.toNat = (dread s (effectiveAddress m s)).toNat % 16 * 16 + (dread s (effectiveAddress m s)).toNat / 16 ∧
      StoredAt 1 s t (effectiveAddress m s) r) ∧
    (∃ t, exec (.swapa m) s = .next t ∧
      t.acc.toNat = (dread s (effectiveAddress m s)).toNat % 16 * 16 + (dread s (effectiveAddress m s)).toNat / 16 ∧
      t = { s with acc := t.acc, wdt := elapsed s 1 })

/-! ## Branches -/

/-- `46_branch.md` R181, R190 (the saved PC is the incremented one, D4, log 12; the mark STKV is D8, log 15): JMP loads the
target, CALL saves PC first. -/
def Obligations.JumpAndCall : Prop :=
  ∀ (addr : AddrField) (s : State), addr.toNat ≤ 0x3FF →
    exec (.jmp addr) s = .next { s with pc := BitVec.ofNat 10 addr.toNat, wdt := elapsed s 2 } ∧
    exec (.call addr) s =
      .next { s with pc := BitVec.ofNat 10 addr.toNat, stk := s.pc, stkv := true, wdt := elapsed s 2 }

/-- `46_branch.md` R180, R182, R184, R185 (the wrap of PC is D3, log 11): a skip adds one to PC and one cycle; nothing else
changes. -/
def Obligations.SkipsOnTest : Prop :=
  ∀ (m : MField) (i : BitVec 3) (s : State) (v : Byte), m.toNat ≤ 0x3F → v = dread s (effectiveAddress m s) →
    exec (.sz m) s = .next { s with
      pc := BitVec.ofNat 10 (s.pc.toNat + if v.toNat = 0 then 1 else 0)
      wdt := elapsed s (if v.toNat = 0 then 2 else 1) } ∧
    exec (.szBit m i) s = .next { s with
      pc := BitVec.ofNat 10 (s.pc.toNat + if v.getLsbD i.toNat = false then 1 else 0)
      wdt := elapsed s (if v.getLsbD i.toNat = false then 2 else 1) } ∧
    exec (.snzBit m i) s = .next { s with
      pc := BitVec.ofNat 10 (s.pc.toNat + if v.getLsbD i.toNat = true then 1 else 0)
      wdt := elapsed s (if v.getLsbD i.toNat = true then 2 else 1) }

/-- `46_branch.md` R180, R183, R188, R189 (ACC written in both cases: the spec's decision D26, log 28; the wrap of PC is D3, log
11). -/
def Obligations.SkipsThroughAcc : Prop :=
  ∀ (m : MField) (s : State) (i : Instr) (d : Nat), m.toNat ≤ 0x3F →
    (i = .sza m ∧ d = 0) ∨ (i = .siza m ∧ d = 1) ∨ (i = .sdza m ∧ d = 255) →
    ∃ t, exec i s = .next t ∧ t.acc.toNat = ((dread s (effectiveAddress m s)).toNat + d) % 256 ∧
      t = { s with
        acc := t.acc
        pc := BitVec.ofNat 10 (s.pc.toNat + if t.acc.toNat = 0 then 1 else 0)
        wdt := elapsed s (if t.acc.toNat = 0 then 2 else 1) }

/-- `46_branch.md` R180, R186, R187: SIZ and SDZ store the result in both cases and skip if it is 00H, without a flag (the wrap
of PC in the skip is the spec's decision D3, log 11). A result 00H with destination PCL is refused (the spec's decision D11,
log 18). -/
def Obligations.SkipsThroughMemory : Prop :=
  ∀ (m : MField) (s : State) (i : Instr) (d : Nat) (r : Byte), m.toNat ≤ 0x3F →
    (i = .siz m ∧ d = 1) ∨ (i = .sdz m ∧ d = 255) →
    r.toNat = ((dread s (effectiveAddress m s)).toNat + d) % 256 →
    if effectiveAddress m s = 0x06#6 ∧ r.toNat = 0 then exec i s = .refused .skipWithPclLoad
    else
      ∃ t, exec i s = .next t ∧
        StoredAt (if r.toNat = 0 then 2 else 1)
          { s with pc := BitVec.ofNat 10 (s.pc.toNat + if r.toNat = 0 then 1 else 0) } t (effectiveAddress m s) r

/-- `46_branch.md` R191, R192, R194 (STKV and the refusal are the spec's decision D8, log 15; RETI as RET is D19, log 25). -/
def Obligations.Returns : Prop :=
  ∀ (x : Byte) (s : State),
    (s.stkv = true →
      exec .ret s = .next { s with pc := s.stk, stkv := false, wdt := elapsed s 2 } ∧
      exec .reti s = .next { s with pc := s.stk, stkv := false, wdt := elapsed s 2 } ∧
      exec (.retAX x) s = .next { s with pc := s.stk, stkv := false, acc := x, wdt := elapsed s 2 }) ∧
    (s.stkv = false →
      exec .ret s = .refused .returnWithEmptyStack ∧ exec .reti s = .refused .returnWithEmptyStack ∧
      exec (.retAX x) s = .refused .returnWithEmptyStack)

/-- `10_state.md` R25, `70_reset_and_hazards.md` R271 (the saved PC is the incremented one, D4, log 12; its wrap is D3, log 11;
the refusal is D8, log 15): CALL a, then CALL b fetched at a, then RET fetched at b: only the last return address, that after
a, is kept, and a return after it finds the stack empty. Each instruction runs after its own fetch increment (R11). -/
def Obligations.StackHoldsOneAddress : Prop :=
  ∀ (a b : AddrField) (s : State), a.toNat ≤ 0x3FF → b.toNat ≤ 0x3FF →
    ∃ t u v, exec (.call a) s = .next t ∧ t.pc.toNat = a.toNat ∧ exec (.call b) t.advance = .next u ∧
      u.pc.toNat = b.toNat ∧ exec .ret u.advance = .next v ∧ v.pc.toNat = (a.toNat + 1) % 1024 ∧
      v.acc = s.acc ∧ v.status = s.status ∧ exec .ret v.advance = .refused .returnWithEmptyStack

/-! ## Table reads and the rest -/

/-- `47_table.md` R200 to R202, `20_memory.md` R63 (the page of TABRDC is that of the incremented PC, D4, log 12): w[13:8] to
TBLH, w[7:0] to [m], two cycles. -/
def Obligations.TableReads : Prop :=
  ∀ (m : MField) (s : State) (i : Instr) (a : Nat) (w : Word14), m.toNat ≤ 0x3F →
    (i = .tabrdc m ∧ a = s.pc.toNat / 256 * 256 + s.tblp.toNat) ∨ (i = .tabrdl m ∧ a = 0x300 + s.tblp.toNat) →
    w = Memory.read s.rom a →
    ∃ t, exec i s = .next t ∧
      StoredAt 2 { s with tblh := BitVec.ofNat 6 (w.toNat / 256) } t (effectiveAddress m s)
        (BitVec.ofNat 8 (w.toNat % 256))

/-- `48_misc.md` R205, R213: NOP counts a cycle; HALT sets PD, clears TO, the count and the marks (the marks by the spec's
decision D13, log 20), and stops the core, PC at the next instruction. That it does so with the watchdog disabled too is the
spec's decision D16 (log 23). -/
def Obligations.NopAndHalt : Prop :=
  ∀ s : State,
    exec .nop s = .next { s with wdt := elapsed s 1 } ∧
    exec .halt s =
      .next { s with flagPD := true, flagTO := false, wdt := 0, w1 := false, w2 := false, halted := true }

/-- `48_misc.md` R208 to R210: the three clearing instructions (what is done with the watchdog disabled, with the group not
selected and with the marks are the spec's decisions D16, D14, D13; log 23, log 21, log 20). -/
def Obligations.WatchdogClearing : Prop :=
  ∀ s : State,
    (s.cfg.wdtEn = false →
      exec .clrWdt s = .next s ∧ exec .clrWdt1 s = .next s ∧ exec .clrWdt2 s = .next s) ∧
    (s.cfg.wdtEn = true → s.cfg.clrWdtTimes = .one →
      exec .clrWdt s = .next { s with wdt := 0, flagPD := false, flagTO := false } ∧
      exec .clrWdt1 s = .refused .clrWdtGroupNotSelected ∧ exec .clrWdt2 s = .refused .clrWdtGroupNotSelected) ∧
    (s.cfg.wdtEn = true → s.cfg.clrWdtTimes = .two →
      exec .clrWdt s = .refused .clrWdtGroupNotSelected ∧
      exec .clrWdt1 s =
        (if s.w2 then .next { s with wdt := 0, flagPD := false, flagTO := false, w1 := false, w2 := false }
          else .next { s with w1 := true, wdt := s.wdt + 1 }) ∧
      exec .clrWdt2 s =
        (if s.w1 then .next { s with wdt := 0, flagPD := false, flagTO := false, w1 := false, w2 := false }
          else .next { s with w2 := true, wdt := s.wdt + 1 }))

/-- `48_misc.md` R209, R210, `70_reset_and_hazards.md` R275 (the marks are D13, log 20): with the pair selected, repeating one of
the two does not clear, and the other then does, in either order. -/
def Obligations.PairMustAlternate : Prop :=
  ∀ (s : State) (i j : Instr),
    s.cfg.wdtEn = true → s.cfg.clrWdtTimes = .two → s.w1 = false → s.w2 = false →
    (i = .clrWdt1 ∧ j = .clrWdt2) ∨ (i = .clrWdt2 ∧ j = .clrWdt1) →
    ∃ t u v, exec i s = .next t ∧ exec i t = .next u ∧ exec j u = .next v ∧
      u.wdt = s.wdt + 2 ∧ u.flagTO = s.flagTO ∧ u.flagPD = s.flagPD ∧
      v = { s with wdt := 0, flagPD := false, flagTO := false }

/-! ## Operands -/

/-- `20_memory.md` R65: the effective address of an operand field in range, one level of indirection. -/
def Obligations.EffectiveAddressOfField : Prop :=
  ∀ (m : MField) (s : State), m.toNat ≤ 0x3F →
    (effectiveAddress m s).toNat = if m.toNat = 0 then s.mp.toNat else m.toNat

/-- `20_memory.md` R66, address by address (the latch read at 16H and the low latch bits at 12H and 14H are the spec's decision
D12, log 19). -/
def Obligations.DataReadMap : Prop :=
  ∀ (s : State) (a : DAddr),
    (a.toNat = 0x00 → (dread s a).toNat = 0) ∧
    (a.toNat = 0x01 → (dread s a).toNat = 0xC0 + s.mp.toNat) ∧
    (a.toNat = 0x05 → dread s a = s.acc) ∧
    (a.toNat = 0x06 → (dread s a).toNat = s.pc.toNat % 256) ∧
    (a.toNat = 0x07 → dread s a = s.tblp) ∧
    (a.toNat = 0x08 → (dread s a).toNat = s.tblh.toNat) ∧
    (a.toNat = 0x0A → (dread s a).toNat = 32 * s.flagTO.toNat + 16 * s.flagPD.toNat + 8 * s.flagOV.toNat +
      4 * s.flagZ.toNat + 2 * s.flagAC.toNat + s.flagC.toNat) ∧
    (a.toNat = 0x12 → ∀ k, k < 8 →
      (dread s a).getLsbD k = (s.extPA.getLsbD k && (s.paL.getLsbD k || !s.cfg.portLowWins))) ∧
    (a.toNat = 0x14 → ∀ k, k < 8 →
      (dread s a).getLsbD k =
        (s.extPB.getLsbD k && (decide (2 ≤ k) || s.pbL.getLsbD k || !s.cfg.portLowWins))) ∧
    (a.toNat = 0x16 → (dread s a).toNat = s.pc0L.toNat) ∧
    (0x20 ≤ a.toNat → dread s a = s.cell a.toNat) ∧
    ((0x02 ≤ a.toNat ∧ a.toNat ≤ 0x04) ∨ a.toNat = 0x09 ∨ (0x0B ≤ a.toNat ∧ a.toNat ≤ 0x11) ∨ a.toNat = 0x13 ∨
      a.toNat = 0x15 ∨ (0x17 ≤ a.toNat ∧ a.toNat ≤ 0x1F) → (dread s a).toNat = 0)

/-- `20_memory.md` R67 for every address and byte (ignored writes and the width of PB_L are the spec's decisions D5, D6, D29; log
13, log 30): exactly the named register or cell changes, to what it keeps of the byte. -/
def Obligations.DataWriteMap : Prop :=
  ∀ (s : State) (a : DAddr) (v : Byte), StoredAt 0 s (dwrite s a v) a v

/-- The spec's decisions D7 and D1 (`20_memory.md` R64, R80 (i); `30_encoding.md` R96; log 14): an operand field out of range
refuses the instruction, whatever the state. -/
def Obligations.OperandOutOfRangeIsRefused : Prop :=
  ∀ (i : Instr) (s : State), i.wf = false →
    exec i s = .refused .dataAddressAbove3FH ∨ exec i s = .refused .programAddressAbove3FFH

/-- The spec's decision D10 (`20_memory.md` R80 (d), log 17): the thirteen flag-writing instructions with destination STATUS are
refused, and no other instruction is refused for its destination being STATUS. -/
def Obligations.FlagWriteToStatusIsRefused : Prop :=
  ∀ (i : Instr) (m : MField) (s : State), m.toNat ≤ 0x3F → effectiveAddress m s = 0x0A#6 → writtenOperand i = some m →
    (exec i s = .refused .flagWriteToStatus ↔
      i = .addm m ∨ i = .adcm m ∨ i = .subm m ∨ i = .sbcm m ∨ i = .daa m ∨ i = .andm m ∨ i = .orm m ∨ i = .xorm m ∨
      i = .cpl m ∨ i = .inc m ∨ i = .dec m ∨ i = .rlc m ∨ i = .rrc m)

/-- `95_test_vectors.md` B14 (decisions D1, D7, D8, D10, D11, D14): an instruction is refused in exactly the collected cases. -/
def Obligations.RefusalsAreTheListedOnes : Prop :=
  ∀ (i : Instr) (s : State) (r : Refusal), exec i s = .refused r ↔ refusalOf i s = some r

/-- `95_test_vectors.md` B14, `60_exceptions.md` R220: every other instruction completes in every state. -/
def Obligations.EveryOtherInstructionCompletes : Prop :=
  ∀ (i : Instr) (s : State), refusalOf i s = none → ∃ t, exec i s = .next t

/-! ## The whole machine -/

/-- Every step keeps the invariant: memories in canonical form and inside their address spaces (`20_memory.md` R60), the watchdog
below its period and its marks legal (R237, R239; decisions D13, D15, D16), the halted state as HALT leaves it (R245,
R246). -/
def Obligations.StepKeepsInvariant : Prop :=
  ∀ s t : State, s.Inv → step s = .next t → t.Inv

/-- The reset state meets the invariant. -/
def Obligations.ResetMeetsInvariant : Prop := State.reset.Inv

/-- `20_memory.md` R62: a read of program memory returns the word the ROM holds there, and the same word for the same address
after any step, whatever the step read or did. -/
def Obligations.ProgramReadsStayTheSame : Prop :=
  ∀ (s : State) (a : PAddr),
    s.pread a = Memory.read s.rom a.toNat ∧ ∀ t, step s = .next t → t.pread a = s.pread a

/-- `10_state.md` R21, `20_memory.md` R62, R74, R78 for program memory, `00_scope.md` R5 for the mask options, R7 for the open
parameters beside them (held in State, log 3): no step changes any of them, whatever instruction or reset it is. -/
def Obligations.StepKeepsRomAndOptions : Prop :=
  ∀ s t : State, step s = .next t → t.rom = s.rom ∧ t.cfg = s.cfg

/-- `10_state.md` R31: only TABRDC and TABRDL change TBLH, and a step without a power-on changes it no other way. -/
def Obligations.OnlyTableReadsChangeTblh : Prop :=
  ∀ s t : State, step s = .next t → t.tblh ≠ s.tblh →
    (∃ u, s.currentInput.event = some (.powerOn u)) ∨
    (s.halted = false ∧ ∃ m, s.fetch = .ok (.tabrdc m) ∨ s.fetch = .ok (.tabrdl m))

/-- `10_state.md` R35: a step changes TO or PD only by a power-on (both cleared), a RES reset while halted (TO 0, PD 1), a
watchdog time-out (TO set), HALT (TO 0, PD 1), or a successful clearing by software (both cleared); and each of these, in an
instruction or at a boundary, leaves TO and PD so. CALL does not save STATUS: it and the return leave it as it is. The spec's
decisions in it: the time-out at a count of 2^WDT_N (D15, log 22), which clearing is successful (D13, D14, D16; log 20, log 21,
log 23), HALT with the watchdog disabled (D16), the order of events at a boundary (D17, log 9). -/
def Obligations.OnlyTheseEventsChangeToAndPd : Prop :=
  (∀ s t : State, step s = .next t → (t.flagTO ≠ s.flagTO ∨ t.flagPD ≠ s.flagPD) →
    ((∃ u, s.currentInput.event = some (.powerOn u)) ∧ t.flagTO = false ∧ t.flagPD = false) ∨
    (s.currentInput.event = some .resLow ∧ s.halted = true ∧ t.flagTO = false ∧ t.flagPD = true) ∨
    (s.currentInput.event = none ∧ s.halted = false ∧ s.cfg.wdtEn = true ∧
      (∃ i u, s.fetch = .ok i ∧ exec i s.advance = .next u ∧ 2 ^ s.cfg.wdtN.toNat ≤ u.wdt) ∧
      t.flagTO = true ∧ t.flagPD = s.flagPD ∧ t.pc = 0x000#10) ∨
    (s.halted = false ∧ s.fetch = .ok .halt ∧ t.flagTO = false ∧ t.flagPD = true) ∨
    (s.halted = false ∧ (∃ i, s.fetch = .ok i ∧ ClearsWatchdog i s) ∧ t.flagTO = false ∧ t.flagPD = false)) ∧
  (∀ (i : Instr) (s t : State), exec i s = .next t →
    (i = .halt → t.flagTO = false ∧ t.flagPD = true) ∧
    (ClearsWatchdog i s → t.flagTO = false ∧ t.flagPD = false) ∧
    (i ≠ .halt → ¬ ClearsWatchdog i s → t.flagTO = s.flagTO ∧ t.flagPD = s.flagPD)) ∧
  (∀ s : State, (s.boundary.flagTO, s.boundary.flagPD) =
    match s.currentInput.event with
    | some (.powerOn _) => (false, false)
    | some .resLow => if s.halted = true then (false, true) else (s.flagTO, s.flagPD)
    | none =>
      if s.cfg.wdtEn = true ∧ s.halted = false ∧ 2 ^ s.cfg.wdtN.toNat ≤ s.wdt then (true, s.flagPD)
      else (s.flagTO, s.flagPD)) ∧
  (∀ (addr : AddrField) (s t : State),
    exec (.call addr) s = .next t ∨ exec .ret s = .next t → t.status = s.status)

/-- `10_state.md` R43, `60_exceptions.md` R245: HALT mode is entered only by the HALT instruction. -/
def Obligations.OnlyHaltStopsTheCore : Prop :=
  ∀ s t : State, step s = .next t → s.halted = false → t.halted = true → s.fetch = .ok .halt

/-- `10_state.md` R25, R26, `46_branch.md` R193, `60_exceptions.md` R226: of the instructions CALL alone writes the stack
register, and CALL and the returns alone move its mark; a step changes STK only by a CALL or a power-on, and STKV only by one
of these instructions or a reset, which clears it. The spec's decisions in it: the mark STKV and its clearing by a reset (D8,
log 15), STK kept by the warm resets and redrawn by a power-on (D18, log 24), the time-out at a count of 2^WDT_N (D15, log 22)
and resets taken at the boundary (D17, log 9). -/
def Obligations.OnlyCallsAndReturnsUseTheStack : Prop :=
  (∀ (i : Instr) (s t : State), exec i s = .next t →
    (t.stk ≠ s.stk → ∃ addr, i = .call addr) ∧
    (t.stkv ≠ s.stkv → (∃ addr, i = .call addr) ∨ i = .ret ∨ i = .reti ∨ ∃ x, i = .retAX x)) ∧
  (∀ s t : State, step s = .next t →
    (t.stk ≠ s.stk →
      (∃ v, s.currentInput.event = some (.powerOn v)) ∨ (s.halted = false ∧ ∃ addr, s.fetch = .ok (.call addr))) ∧
    (t.stkv ≠ s.stkv →
      (s.halted = false ∧
        ((∃ addr, s.fetch = .ok (.call addr)) ∨ s.fetch = .ok .ret ∨ s.fetch = .ok .reti ∨
          ∃ x, s.fetch = .ok (.retAX x))) ∨
      (t.stkv = false ∧
        ((∃ v, s.currentInput.event = some (.powerOn v)) ∨ s.currentInput.event = some .resLow ∨
          (s.halted = false ∧ s.cfg.wdtEn = true ∧
            ∃ i u, s.fetch = .ok i ∧ exec i s.advance = .next u ∧ 2 ^ s.cfg.wdtN.toNat ≤ u.wdt)))))

/-- `10_state.md` R23 (an instruction's part of it; the wrap is D3, log 11): PC is changed other than by the increment only by a
jump or call, a return, a skip, or a load of PCL, which keeps PC[9:8]. -/
def Obligations.WaysToChangePc : Prop :=
  ∀ (i : Instr) (s t : State), exec i s = .next t → t.pc ≠ s.pc →
    (∃ addr, (i = .jmp addr ∨ i = .call addr) ∧ t.pc.toNat = addr.toNat) ∨
    ((i = .ret ∨ i = .reti ∨ ∃ x, i = .retAX x) ∧ t.pc = s.stk) ∨
    (maySkip i = true ∧ t.pc.toNat = (s.pc.toNat + 1) % 1024) ∨
    (∃ m, writtenOperand i = some m ∧ effectiveAddress m s = 0x06#6 ∧ t.pc.toNat / 256 = s.pc.toNat / 256)

/-- `20_memory.md` R70, R71, `60_exceptions.md` R257: the outside levels do nothing until a port read samples them: an
instruction that does not read 12H or 14H acts alike under any levels. -/
def Obligations.OnlyPortReadsSeeTheLevels : Prop :=
  ∀ (i : Instr) (s : State) (pa pb : Byte),
    (∀ m, readOperand i = some m → effectiveAddress m s ≠ 0x12#6 ∧ effectiveAddress m s ≠ 0x14#6) →
    exec i (s.withLevels pa pb) = mapNext (fun t => t.withLevels pa pb) (exec i s)

/-- `60_exceptions.md` R250, R252, R257: the pin PC0/REM, the port lines and the pin OSC2 as the environment sees them. The
carrier divides the instruction clock by m x 2^n, 2, 4, 8, 16 or 3, 6, 12, 24 by mask option 6. The level of a stopped carrier
is open (log 32), and so is OSC2 in RC mode in HALT, where the oscillator is stopped, and in crystal mode (log 36). -/
def Obligations.OutputPins : Prop :=
  ∀ (s : State) (i : BitVec 3),
    (s.cfg.pc0Mode = .level → s.remPin = if s.pc0L then .high else .low) ∧
    (s.cfg.pc0Mode = .carrier → s.pc0L = true → s.remPin = .low) ∧
    (s.cfg.pc0Mode = .carrier → s.pc0L = false → s.halted = false →
      ∃ divisor duty, s.remPin = .carrier divisor duty ∧
        divisor = (match s.cfg.carM with | .two => 2 | .three => 3) *
          (match s.cfg.carN with | .n0 => 1 | .n1 => 2 | .n2 => 4 | .n3 => 8) ∧
        (divisor ∈ [2, 4, 8, 16] → duty = .half) ∧ (divisor = 3 → duty = .third) ∧
        (divisor ∈ [6, 12, 24] → duty = s.cfg.carDuty)) ∧
    (s.cfg.osc = .rc → (s.osc2Pin = .clockDividedByFour ↔ s.halted = false)) ∧
    (s.lineA i = .drivenLow ↔ s.paL.getLsbD i.toNat = false) ∧
    (s.lineB i = .drivenLow ↔ i.toNat < 2 ∧ s.pbL.getLsbD i.toNat = false)
end

