-- ==== Sys2Proof/Laws/Decode.lean ====
section
/-! SUPPORT. The ENC of a configuration: what a listed ENC decodes. -/

namespace Sys2Proof

theorem decodeUnder_defaultTable {cfg : Cfg} (h : cfg.enc = .defaultTable) (w : Word14) :
    decodeUnder cfg w = decode cfg.clrWdtTimes w := by
  simp [decodeUnder, h]

theorem decodeUnder_listed {cfg : Cfg} {rows : List (Word14 × Instr)} (h : cfg.enc = .listed rows) (w : Word14) :
    decodeUnder cfg w = decodeListed rows w := by
  simp [decodeUnder, h]

/-- A word that a listed ENC decodes has its row in the list, and the row keeps R92. -/
theorem decodeListed_ok {rows : List (Word14 × Instr)} {w : Word14} {i : Instr} (h : decodeListed rows w = .ok i) :
    (w, i) ∈ rows ∧ targetIsWordBits w i = true := by
  induction rows with
  | nil => cases h
  | cons row rest ih =>
    obtain ⟨v, j⟩ := row
    simp only [decodeListed] at h
    split at h
    · obtain ⟨rfl, ht⟩ := ‹v = w ∧ targetIsWordBits v j = true›
      cases h
      exact ⟨List.mem_cons_self, ht⟩
    · exact ⟨List.mem_cons_of_mem _ (ih h).1, (ih h).2⟩

theorem decodesTo_iff {rows : List (Word14 × Instr)} {w : Word14} {i : Instr} :
    decodesTo rows w i = true ↔ decodeListed rows w = .ok i := by
  unfold decodesTo
  cases decodeListed rows w <;> simp

end Sys2Proof
end

