-- ==== Sys2Proof/Laws/Memory.lean ====
section
/-! SUPPORT. Sparse memory: a read after a write, and the canonical form kept by every operation. -/

namespace Sys2Proof.Machine

variable {w : Nat}

theorem Memory.read_cons (b : Nat) (u : BitVec w) (rest : List (Nat × BitVec w)) (a : Nat) :
    Memory.read ((b, u) :: rest) a = if a = b then u else Memory.read rest a := rfl

theorem Memory.read_erase (mem : List (Nat × BitVec w)) (a c : Nat) :
    Memory.read (Memory.erase mem a) c = if c = a then Memory.unlisted else Memory.read mem c := by
  induction mem with
  | nil => simp [Memory.erase, Memory.read]
  | cons p rest ih =>
    obtain ⟨b, u⟩ := p
    rw [Memory.erase, List.filter_cons, ← Memory.erase]
    by_cases hb : b = a <;> by_cases hc : c = b <;> simp_all [Memory.read_cons]

theorem Memory.read_insert (mem : List (Nat × BitVec w)) (a : Nat) (v : BitVec w) (c : Nat)
    (h : Memory.read mem a = Memory.unlisted) (ha : ∀ p ∈ mem, p.1 ≠ a) :
    Memory.read (Memory.insert mem a v) c = if c = a then v else Memory.read mem c := by
  induction mem with
  | nil => simp [Memory.insert, Memory.read]
  | cons p rest ih =>
    obtain ⟨b, u⟩ := p
    have hab : b ≠ a := ha (b, u) (by simp)
    have ih := ih (by simpa [Memory.read_cons, hab.symm] using h) fun p hp => ha p (by simp [hp])
    by_cases hlt : a < b
    · simp [Memory.insert, hlt, Memory.read_cons]
    · rw [Memory.insert, if_neg hlt]
      by_cases hc : c = b <;> simp_all [Memory.read_cons]

theorem Memory.not_mem_erase (mem : List (Nat × BitVec w)) (a : Nat) : ∀ p ∈ Memory.erase mem a, p.1 ≠ a := by
  intro p hp
  simpa using (List.mem_filter.mp hp).2

/-- A read after a write: the value written at its address, the old value at every other. -/
theorem Memory.read_write (mem : List (Nat × BitVec w)) (a : Nat) (v : BitVec w) (c : Nat) :
    Memory.read (Memory.write mem a v) c = if c = a then v else Memory.read mem c := by
  unfold Memory.write
  split
  · simp_all [Memory.read_erase]
  · rw [Memory.read_insert _ _ _ _ (by simp [Memory.read_erase]) (Memory.not_mem_erase mem a), Memory.read_erase]
    split <;> rfl

@[simp] theorem Memory.read_write_same (mem : List (Nat × BitVec w)) (a : Nat) (v : BitVec w) :
    Memory.read (Memory.write mem a v) a = v := by simp [Memory.read_write]

theorem Memory.read_write_other (mem : List (Nat × BitVec w)) {a c : Nat} (v : BitVec w) (h : c ≠ a) :
    Memory.read (Memory.write mem a v) c = Memory.read mem c := by simp [Memory.read_write, h]

theorem Memory.wfFrom_cons (lo hi a : Nat) (v : BitVec w) (rest : List (Nat × BitVec w)) :
    Memory.wfFrom lo hi ((a, v) :: rest) = true ↔
      lo ≤ a ∧ a < hi ∧ v ≠ Memory.unlisted ∧ Memory.wfFrom (a + 1) hi rest = true := by
  simp [Memory.wfFrom, and_assoc]

theorem Memory.wfFrom_mono {lo lo' hi : Nat} {mem : List (Nat × BitVec w)} (h : lo' ≤ lo)
    (hw : Memory.wfFrom lo hi mem = true) : Memory.wfFrom lo' hi mem = true := by
  cases mem with
  | nil => rfl
  | cons p rest =>
    rw [Memory.wfFrom_cons] at hw ⊢
    exact ⟨h.trans hw.1, hw.2⟩

theorem Memory.wfFrom_erase {lo hi : Nat} {mem : List (Nat × BitVec w)} (a : Nat)
    (hw : Memory.wfFrom lo hi mem = true) : Memory.wfFrom lo hi (Memory.erase mem a) = true := by
  induction mem generalizing lo with
  | nil => rfl
  | cons p rest ih =>
    obtain ⟨b, u⟩ := p
    rw [Memory.wfFrom_cons] at hw
    rw [Memory.erase, List.filter_cons, ← Memory.erase]
    have hrest := ih hw.2.2.2
    split
    · rw [Memory.wfFrom_cons]
      exact ⟨hw.1, hw.2.1, hw.2.2.1, hrest⟩
    · exact Memory.wfFrom_mono (by omega) hrest

theorem Memory.wfFrom_insert {lo hi : Nat} {mem : List (Nat × BitVec w)} {a : Nat} {v : BitVec w}
    (hv : v ≠ Memory.unlisted) (hlo : lo ≤ a) (hhi : a < hi) (ha : ∀ p ∈ mem, p.1 ≠ a)
    (hw : Memory.wfFrom lo hi mem = true) : Memory.wfFrom lo hi (Memory.insert mem a v) = true := by
  induction mem generalizing lo with
  | nil => simp [Memory.insert, Memory.wfFrom, hlo, hhi, hv]
  | cons p rest ih =>
    obtain ⟨b, u⟩ := p
    have hab : b ≠ a := ha (b, u) (by simp)
    rw [Memory.wfFrom_cons] at hw
    unfold Memory.insert
    split
    · rw [Memory.wfFrom_cons, Memory.wfFrom_cons]
      exact ⟨hlo, hhi, hv, by omega, hw.2⟩
    · rw [Memory.wfFrom_cons]
      exact ⟨hw.1, hw.2.1, hw.2.2.1, ih (by omega) (fun p hp => ha p (by simp [hp])) hw.2.2.2⟩

/-- A write inside the address range keeps the canonical form. -/
theorem Memory.wf_write {lo hi : Nat} {mem : List (Nat × BitVec w)} {a : Nat} (v : BitVec w) (hlo : lo ≤ a) (hhi : a < hi)
    (hw : Memory.wf lo hi mem = true) : Memory.wf lo hi (Memory.write mem a v) = true := by
  unfold Memory.write
  split
  · exact Memory.wfFrom_erase a hw
  · exact Memory.wfFrom_insert ‹_› hlo hhi (Memory.not_mem_erase mem a) (Memory.wfFrom_erase a hw)

theorem Memory.wf_fill {lo hi a : Nat} (vs : List (BitVec w)) {mem : List (Nat × BitVec w)} (hlo : lo ≤ a)
    (hw : Memory.wf lo hi mem = true) : Memory.wf lo hi (Memory.fill hi a vs mem) = true := by
  induction vs generalizing a mem with
  | nil => exact hw
  | cons v vs ih =>
    unfold Memory.fill
    split
    · exact ih (by omega) (Memory.wf_write v hlo ‹_› hw)
    · exact hw

theorem Memory.read_fill_below {hi a c : Nat} (vs : List (BitVec w)) (mem : List (Nat × BitVec w)) (h : c < a) :
    Memory.read (Memory.fill hi a vs mem) c = Memory.read mem c := by
  induction vs generalizing a mem with
  | nil => rfl
  | cons v vs ih =>
    unfold Memory.fill
    split
    · rw [ih _ (by omega), Memory.read_write_other _ _ (by omega)]
    · rfl

/-- The reset memories have the canonical form. -/
theorem State.reset_memoryOk : Memory.wf 0x20 0x40 State.reset.ram = true ∧ Memory.wf 0x000 0x400 State.reset.rom = true :=
  ⟨rfl, rfl⟩

end Sys2Proof.Machine
end

