-- ==== Sys2Proof/Laws/State.lean ====
section
/-! SUPPORT. The state record: for each update, each field after it. Every lemma is true by rfl. -/

namespace Sys2Proof.Machine

variable (s : State)

/-! ### withFlags -/

@[simp] theorem State.withFlags_cfg (f : FlagWrites) : (s.withFlags f).cfg = s.cfg := rfl
@[simp] theorem State.withFlags_rom (f : FlagWrites) : (s.withFlags f).rom = s.rom := rfl
@[simp] theorem State.withFlags_pc (f : FlagWrites) : (s.withFlags f).pc = s.pc := rfl
@[simp] theorem State.withFlags_stk (f : FlagWrites) : (s.withFlags f).stk = s.stk := rfl
@[simp] theorem State.withFlags_stkv (f : FlagWrites) : (s.withFlags f).stkv = s.stkv := rfl
@[simp] theorem State.withFlags_acc (f : FlagWrites) : (s.withFlags f).acc = s.acc := rfl
@[simp] theorem State.withFlags_mp (f : FlagWrites) : (s.withFlags f).mp = s.mp := rfl
@[simp] theorem State.withFlags_tblp (f : FlagWrites) : (s.withFlags f).tblp = s.tblp := rfl
@[simp] theorem State.withFlags_tblh (f : FlagWrites) : (s.withFlags f).tblh = s.tblh := rfl
@[simp] theorem State.withFlags_flagC (f : FlagWrites) : (s.withFlags f).flagC = f.c.getD s.flagC := rfl
@[simp] theorem State.withFlags_flagAC (f : FlagWrites) : (s.withFlags f).flagAC = f.ac.getD s.flagAC := rfl
@[simp] theorem State.withFlags_flagZ (f : FlagWrites) : (s.withFlags f).flagZ = f.z.getD s.flagZ := rfl
@[simp] theorem State.withFlags_flagOV (f : FlagWrites) : (s.withFlags f).flagOV = f.ov.getD s.flagOV := rfl
@[simp] theorem State.withFlags_flagPD (f : FlagWrites) : (s.withFlags f).flagPD = s.flagPD := rfl
@[simp] theorem State.withFlags_flagTO (f : FlagWrites) : (s.withFlags f).flagTO = s.flagTO := rfl
@[simp] theorem State.withFlags_paL (f : FlagWrites) : (s.withFlags f).paL = s.paL := rfl
@[simp] theorem State.withFlags_pbL (f : FlagWrites) : (s.withFlags f).pbL = s.pbL := rfl
@[simp] theorem State.withFlags_pc0L (f : FlagWrites) : (s.withFlags f).pc0L = s.pc0L := rfl
@[simp] theorem State.withFlags_ram (f : FlagWrites) : (s.withFlags f).ram = s.ram := rfl
@[simp] theorem State.withFlags_wdt (f : FlagWrites) : (s.withFlags f).wdt = s.wdt := rfl
@[simp] theorem State.withFlags_w1 (f : FlagWrites) : (s.withFlags f).w1 = s.w1 := rfl
@[simp] theorem State.withFlags_w2 (f : FlagWrites) : (s.withFlags f).w2 = s.w2 := rfl
@[simp] theorem State.withFlags_halted (f : FlagWrites) : (s.withFlags f).halted = s.halted := rfl
@[simp] theorem State.withFlags_extPA (f : FlagWrites) : (s.withFlags f).extPA = s.extPA := rfl
@[simp] theorem State.withFlags_extPB (f : FlagWrites) : (s.withFlags f).extPB = s.extPB := rfl
@[simp] theorem State.withFlags_inputs (f : FlagWrites) : (s.withFlags f).inputs = s.inputs := rfl

/-! ### withAcc -/

@[simp] theorem State.withAcc_cfg (v : Byte) : (s.withAcc v).cfg = s.cfg := rfl
@[simp] theorem State.withAcc_rom (v : Byte) : (s.withAcc v).rom = s.rom := rfl
@[simp] theorem State.withAcc_pc (v : Byte) : (s.withAcc v).pc = s.pc := rfl
@[simp] theorem State.withAcc_stk (v : Byte) : (s.withAcc v).stk = s.stk := rfl
@[simp] theorem State.withAcc_stkv (v : Byte) : (s.withAcc v).stkv = s.stkv := rfl
@[simp] theorem State.withAcc_acc (v : Byte) : (s.withAcc v).acc = v := rfl
@[simp] theorem State.withAcc_mp (v : Byte) : (s.withAcc v).mp = s.mp := rfl
@[simp] theorem State.withAcc_tblp (v : Byte) : (s.withAcc v).tblp = s.tblp := rfl
@[simp] theorem State.withAcc_tblh (v : Byte) : (s.withAcc v).tblh = s.tblh := rfl
@[simp] theorem State.withAcc_flagC (v : Byte) : (s.withAcc v).flagC = s.flagC := rfl
@[simp] theorem State.withAcc_flagAC (v : Byte) : (s.withAcc v).flagAC = s.flagAC := rfl
@[simp] theorem State.withAcc_flagZ (v : Byte) : (s.withAcc v).flagZ = s.flagZ := rfl
@[simp] theorem State.withAcc_flagOV (v : Byte) : (s.withAcc v).flagOV = s.flagOV := rfl
@[simp] theorem State.withAcc_flagPD (v : Byte) : (s.withAcc v).flagPD = s.flagPD := rfl
@[simp] theorem State.withAcc_flagTO (v : Byte) : (s.withAcc v).flagTO = s.flagTO := rfl
@[simp] theorem State.withAcc_paL (v : Byte) : (s.withAcc v).paL = s.paL := rfl
@[simp] theorem State.withAcc_pbL (v : Byte) : (s.withAcc v).pbL = s.pbL := rfl
@[simp] theorem State.withAcc_pc0L (v : Byte) : (s.withAcc v).pc0L = s.pc0L := rfl
@[simp] theorem State.withAcc_ram (v : Byte) : (s.withAcc v).ram = s.ram := rfl
@[simp] theorem State.withAcc_wdt (v : Byte) : (s.withAcc v).wdt = s.wdt := rfl
@[simp] theorem State.withAcc_w1 (v : Byte) : (s.withAcc v).w1 = s.w1 := rfl
@[simp] theorem State.withAcc_w2 (v : Byte) : (s.withAcc v).w2 = s.w2 := rfl
@[simp] theorem State.withAcc_halted (v : Byte) : (s.withAcc v).halted = s.halted := rfl
@[simp] theorem State.withAcc_extPA (v : Byte) : (s.withAcc v).extPA = s.extPA := rfl
@[simp] theorem State.withAcc_extPB (v : Byte) : (s.withAcc v).extPB = s.extPB := rfl
@[simp] theorem State.withAcc_inputs (v : Byte) : (s.withAcc v).inputs = s.inputs := rfl

/-! ### withPc -/

@[simp] theorem State.withPc_cfg (a : PAddr) : (s.withPc a).cfg = s.cfg := rfl
@[simp] theorem State.withPc_rom (a : PAddr) : (s.withPc a).rom = s.rom := rfl
@[simp] theorem State.withPc_pc (a : PAddr) : (s.withPc a).pc = a := rfl
@[simp] theorem State.withPc_stk (a : PAddr) : (s.withPc a).stk = s.stk := rfl
@[simp] theorem State.withPc_stkv (a : PAddr) : (s.withPc a).stkv = s.stkv := rfl
@[simp] theorem State.withPc_acc (a : PAddr) : (s.withPc a).acc = s.acc := rfl
@[simp] theorem State.withPc_mp (a : PAddr) : (s.withPc a).mp = s.mp := rfl
@[simp] theorem State.withPc_tblp (a : PAddr) : (s.withPc a).tblp = s.tblp := rfl
@[simp] theorem State.withPc_tblh (a : PAddr) : (s.withPc a).tblh = s.tblh := rfl
@[simp] theorem State.withPc_flagC (a : PAddr) : (s.withPc a).flagC = s.flagC := rfl
@[simp] theorem State.withPc_flagAC (a : PAddr) : (s.withPc a).flagAC = s.flagAC := rfl
@[simp] theorem State.withPc_flagZ (a : PAddr) : (s.withPc a).flagZ = s.flagZ := rfl
@[simp] theorem State.withPc_flagOV (a : PAddr) : (s.withPc a).flagOV = s.flagOV := rfl
@[simp] theorem State.withPc_flagPD (a : PAddr) : (s.withPc a).flagPD = s.flagPD := rfl
@[simp] theorem State.withPc_flagTO (a : PAddr) : (s.withPc a).flagTO = s.flagTO := rfl
@[simp] theorem State.withPc_paL (a : PAddr) : (s.withPc a).paL = s.paL := rfl
@[simp] theorem State.withPc_pbL (a : PAddr) : (s.withPc a).pbL = s.pbL := rfl
@[simp] theorem State.withPc_pc0L (a : PAddr) : (s.withPc a).pc0L = s.pc0L := rfl
@[simp] theorem State.withPc_ram (a : PAddr) : (s.withPc a).ram = s.ram := rfl
@[simp] theorem State.withPc_wdt (a : PAddr) : (s.withPc a).wdt = s.wdt := rfl
@[simp] theorem State.withPc_w1 (a : PAddr) : (s.withPc a).w1 = s.w1 := rfl
@[simp] theorem State.withPc_w2 (a : PAddr) : (s.withPc a).w2 = s.w2 := rfl
@[simp] theorem State.withPc_halted (a : PAddr) : (s.withPc a).halted = s.halted := rfl
@[simp] theorem State.withPc_extPA (a : PAddr) : (s.withPc a).extPA = s.extPA := rfl
@[simp] theorem State.withPc_extPB (a : PAddr) : (s.withPc a).extPB = s.extPB := rfl
@[simp] theorem State.withPc_inputs (a : PAddr) : (s.withPc a).inputs = s.inputs := rfl

/-! ### withTblh -/

@[simp] theorem State.withTblh_cfg (v : BitVec 6) : (s.withTblh v).cfg = s.cfg := rfl
@[simp] theorem State.withTblh_rom (v : BitVec 6) : (s.withTblh v).rom = s.rom := rfl
@[simp] theorem State.withTblh_pc (v : BitVec 6) : (s.withTblh v).pc = s.pc := rfl
@[simp] theorem State.withTblh_stk (v : BitVec 6) : (s.withTblh v).stk = s.stk := rfl
@[simp] theorem State.withTblh_stkv (v : BitVec 6) : (s.withTblh v).stkv = s.stkv := rfl
@[simp] theorem State.withTblh_acc (v : BitVec 6) : (s.withTblh v).acc = s.acc := rfl
@[simp] theorem State.withTblh_mp (v : BitVec 6) : (s.withTblh v).mp = s.mp := rfl
@[simp] theorem State.withTblh_tblp (v : BitVec 6) : (s.withTblh v).tblp = s.tblp := rfl
@[simp] theorem State.withTblh_tblh (v : BitVec 6) : (s.withTblh v).tblh = v := rfl
@[simp] theorem State.withTblh_flagC (v : BitVec 6) : (s.withTblh v).flagC = s.flagC := rfl
@[simp] theorem State.withTblh_flagAC (v : BitVec 6) : (s.withTblh v).flagAC = s.flagAC := rfl
@[simp] theorem State.withTblh_flagZ (v : BitVec 6) : (s.withTblh v).flagZ = s.flagZ := rfl
@[simp] theorem State.withTblh_flagOV (v : BitVec 6) : (s.withTblh v).flagOV = s.flagOV := rfl
@[simp] theorem State.withTblh_flagPD (v : BitVec 6) : (s.withTblh v).flagPD = s.flagPD := rfl
@[simp] theorem State.withTblh_flagTO (v : BitVec 6) : (s.withTblh v).flagTO = s.flagTO := rfl
@[simp] theorem State.withTblh_paL (v : BitVec 6) : (s.withTblh v).paL = s.paL := rfl
@[simp] theorem State.withTblh_pbL (v : BitVec 6) : (s.withTblh v).pbL = s.pbL := rfl
@[simp] theorem State.withTblh_pc0L (v : BitVec 6) : (s.withTblh v).pc0L = s.pc0L := rfl
@[simp] theorem State.withTblh_ram (v : BitVec 6) : (s.withTblh v).ram = s.ram := rfl
@[simp] theorem State.withTblh_wdt (v : BitVec 6) : (s.withTblh v).wdt = s.wdt := rfl
@[simp] theorem State.withTblh_w1 (v : BitVec 6) : (s.withTblh v).w1 = s.w1 := rfl
@[simp] theorem State.withTblh_w2 (v : BitVec 6) : (s.withTblh v).w2 = s.w2 := rfl
@[simp] theorem State.withTblh_halted (v : BitVec 6) : (s.withTblh v).halted = s.halted := rfl
@[simp] theorem State.withTblh_extPA (v : BitVec 6) : (s.withTblh v).extPA = s.extPA := rfl
@[simp] theorem State.withTblh_extPB (v : BitVec 6) : (s.withTblh v).extPB = s.extPB := rfl
@[simp] theorem State.withTblh_inputs (v : BitVec 6) : (s.withTblh v).inputs = s.inputs := rfl

/-! ### advance -/

@[simp] theorem State.advance_cfg : (s.advance).cfg = s.cfg := rfl
@[simp] theorem State.advance_rom : (s.advance).rom = s.rom := rfl
@[simp] theorem State.advance_pc : (s.advance).pc = s.pc + 1#10 := rfl
@[simp] theorem State.advance_stk : (s.advance).stk = s.stk := rfl
@[simp] theorem State.advance_stkv : (s.advance).stkv = s.stkv := rfl
@[simp] theorem State.advance_acc : (s.advance).acc = s.acc := rfl
@[simp] theorem State.advance_mp : (s.advance).mp = s.mp := rfl
@[simp] theorem State.advance_tblp : (s.advance).tblp = s.tblp := rfl
@[simp] theorem State.advance_tblh : (s.advance).tblh = s.tblh := rfl
@[simp] theorem State.advance_flagC : (s.advance).flagC = s.flagC := rfl
@[simp] theorem State.advance_flagAC : (s.advance).flagAC = s.flagAC := rfl
@[simp] theorem State.advance_flagZ : (s.advance).flagZ = s.flagZ := rfl
@[simp] theorem State.advance_flagOV : (s.advance).flagOV = s.flagOV := rfl
@[simp] theorem State.advance_flagPD : (s.advance).flagPD = s.flagPD := rfl
@[simp] theorem State.advance_flagTO : (s.advance).flagTO = s.flagTO := rfl
@[simp] theorem State.advance_paL : (s.advance).paL = s.paL := rfl
@[simp] theorem State.advance_pbL : (s.advance).pbL = s.pbL := rfl
@[simp] theorem State.advance_pc0L : (s.advance).pc0L = s.pc0L := rfl
@[simp] theorem State.advance_ram : (s.advance).ram = s.ram := rfl
@[simp] theorem State.advance_wdt : (s.advance).wdt = s.wdt := rfl
@[simp] theorem State.advance_w1 : (s.advance).w1 = s.w1 := rfl
@[simp] theorem State.advance_w2 : (s.advance).w2 = s.w2 := rfl
@[simp] theorem State.advance_halted : (s.advance).halted = s.halted := rfl
@[simp] theorem State.advance_extPA : (s.advance).extPA = s.extPA := rfl
@[simp] theorem State.advance_extPB : (s.advance).extPB = s.extPB := rfl
@[simp] theorem State.advance_inputs : (s.advance).inputs = s.inputs := rfl

/-! ### tick -/

@[simp] theorem State.tick_cfg (n : Nat) : (s.tick n).cfg = s.cfg := rfl
@[simp] theorem State.tick_rom (n : Nat) : (s.tick n).rom = s.rom := rfl
@[simp] theorem State.tick_pc (n : Nat) : (s.tick n).pc = s.pc := rfl
@[simp] theorem State.tick_stk (n : Nat) : (s.tick n).stk = s.stk := rfl
@[simp] theorem State.tick_stkv (n : Nat) : (s.tick n).stkv = s.stkv := rfl
@[simp] theorem State.tick_acc (n : Nat) : (s.tick n).acc = s.acc := rfl
@[simp] theorem State.tick_mp (n : Nat) : (s.tick n).mp = s.mp := rfl
@[simp] theorem State.tick_tblp (n : Nat) : (s.tick n).tblp = s.tblp := rfl
@[simp] theorem State.tick_tblh (n : Nat) : (s.tick n).tblh = s.tblh := rfl
@[simp] theorem State.tick_flagC (n : Nat) : (s.tick n).flagC = s.flagC := rfl
@[simp] theorem State.tick_flagAC (n : Nat) : (s.tick n).flagAC = s.flagAC := rfl
@[simp] theorem State.tick_flagZ (n : Nat) : (s.tick n).flagZ = s.flagZ := rfl
@[simp] theorem State.tick_flagOV (n : Nat) : (s.tick n).flagOV = s.flagOV := rfl
@[simp] theorem State.tick_flagPD (n : Nat) : (s.tick n).flagPD = s.flagPD := rfl
@[simp] theorem State.tick_flagTO (n : Nat) : (s.tick n).flagTO = s.flagTO := rfl
@[simp] theorem State.tick_paL (n : Nat) : (s.tick n).paL = s.paL := rfl
@[simp] theorem State.tick_pbL (n : Nat) : (s.tick n).pbL = s.pbL := rfl
@[simp] theorem State.tick_pc0L (n : Nat) : (s.tick n).pc0L = s.pc0L := rfl
@[simp] theorem State.tick_ram (n : Nat) : (s.tick n).ram = s.ram := rfl
@[simp] theorem State.tick_wdt (n : Nat) : (s.tick n).wdt = if s.cfg.wdtEn then s.wdt + n else s.wdt := rfl
@[simp] theorem State.tick_w1 (n : Nat) : (s.tick n).w1 = s.w1 := rfl
@[simp] theorem State.tick_w2 (n : Nat) : (s.tick n).w2 = s.w2 := rfl
@[simp] theorem State.tick_halted (n : Nat) : (s.tick n).halted = s.halted := rfl
@[simp] theorem State.tick_extPA (n : Nat) : (s.tick n).extPA = s.extPA := rfl
@[simp] theorem State.tick_extPB (n : Nat) : (s.tick n).extPB = s.extPB := rfl
@[simp] theorem State.tick_inputs (n : Nat) : (s.tick n).inputs = s.inputs := rfl

/-! ### skip -/

@[simp] theorem State.skip_cfg : (s.skip).cfg = s.cfg := rfl
@[simp] theorem State.skip_rom : (s.skip).rom = s.rom := rfl
@[simp] theorem State.skip_pc : (s.skip).pc = s.pc + 1#10 := rfl
@[simp] theorem State.skip_stk : (s.skip).stk = s.stk := rfl
@[simp] theorem State.skip_stkv : (s.skip).stkv = s.stkv := rfl
@[simp] theorem State.skip_acc : (s.skip).acc = s.acc := rfl
@[simp] theorem State.skip_mp : (s.skip).mp = s.mp := rfl
@[simp] theorem State.skip_tblp : (s.skip).tblp = s.tblp := rfl
@[simp] theorem State.skip_tblh : (s.skip).tblh = s.tblh := rfl
@[simp] theorem State.skip_flagC : (s.skip).flagC = s.flagC := rfl
@[simp] theorem State.skip_flagAC : (s.skip).flagAC = s.flagAC := rfl
@[simp] theorem State.skip_flagZ : (s.skip).flagZ = s.flagZ := rfl
@[simp] theorem State.skip_flagOV : (s.skip).flagOV = s.flagOV := rfl
@[simp] theorem State.skip_flagPD : (s.skip).flagPD = s.flagPD := rfl
@[simp] theorem State.skip_flagTO : (s.skip).flagTO = s.flagTO := rfl
@[simp] theorem State.skip_paL : (s.skip).paL = s.paL := rfl
@[simp] theorem State.skip_pbL : (s.skip).pbL = s.pbL := rfl
@[simp] theorem State.skip_pc0L : (s.skip).pc0L = s.pc0L := rfl
@[simp] theorem State.skip_ram : (s.skip).ram = s.ram := rfl
@[simp] theorem State.skip_wdt : (s.skip).wdt = if s.cfg.wdtEn then s.wdt + 1 else s.wdt := rfl
@[simp] theorem State.skip_w1 : (s.skip).w1 = s.w1 := rfl
@[simp] theorem State.skip_w2 : (s.skip).w2 = s.w2 := rfl
@[simp] theorem State.skip_halted : (s.skip).halted = s.halted := rfl
@[simp] theorem State.skip_extPA : (s.skip).extPA = s.extPA := rfl
@[simp] theorem State.skip_extPB : (s.skip).extPB = s.extPB := rfl
@[simp] theorem State.skip_inputs : (s.skip).inputs = s.inputs := rfl

/-! ### withCell -/

@[simp] theorem State.withCell_cfg (a : Nat) (v : Byte) : (s.withCell a v).cfg = s.cfg := rfl
@[simp] theorem State.withCell_rom (a : Nat) (v : Byte) : (s.withCell a v).rom = s.rom := rfl
@[simp] theorem State.withCell_pc (a : Nat) (v : Byte) : (s.withCell a v).pc = s.pc := rfl
@[simp] theorem State.withCell_stk (a : Nat) (v : Byte) : (s.withCell a v).stk = s.stk := rfl
@[simp] theorem State.withCell_stkv (a : Nat) (v : Byte) : (s.withCell a v).stkv = s.stkv := rfl
@[simp] theorem State.withCell_acc (a : Nat) (v : Byte) : (s.withCell a v).acc = s.acc := rfl
@[simp] theorem State.withCell_mp (a : Nat) (v : Byte) : (s.withCell a v).mp = s.mp := rfl
@[simp] theorem State.withCell_tblp (a : Nat) (v : Byte) : (s.withCell a v).tblp = s.tblp := rfl
@[simp] theorem State.withCell_tblh (a : Nat) (v : Byte) : (s.withCell a v).tblh = s.tblh := rfl
@[simp] theorem State.withCell_flagC (a : Nat) (v : Byte) : (s.withCell a v).flagC = s.flagC := rfl
@[simp] theorem State.withCell_flagAC (a : Nat) (v : Byte) : (s.withCell a v).flagAC = s.flagAC := rfl
@[simp] theorem State.withCell_flagZ (a : Nat) (v : Byte) : (s.withCell a v).flagZ = s.flagZ := rfl
@[simp] theorem State.withCell_flagOV (a : Nat) (v : Byte) : (s.withCell a v).flagOV = s.flagOV := rfl
@[simp] theorem State.withCell_flagPD (a : Nat) (v : Byte) : (s.withCell a v).flagPD = s.flagPD := rfl
@[simp] theorem State.withCell_flagTO (a : Nat) (v : Byte) : (s.withCell a v).flagTO = s.flagTO := rfl
@[simp] theorem State.withCell_paL (a : Nat) (v : Byte) : (s.withCell a v).paL = s.paL := rfl
@[simp] theorem State.withCell_pbL (a : Nat) (v : Byte) : (s.withCell a v).pbL = s.pbL := rfl
@[simp] theorem State.withCell_pc0L (a : Nat) (v : Byte) : (s.withCell a v).pc0L = s.pc0L := rfl
@[simp] theorem State.withCell_ram (a : Nat) (v : Byte) : (s.withCell a v).ram = Memory.write s.ram a v := rfl
@[simp] theorem State.withCell_wdt (a : Nat) (v : Byte) : (s.withCell a v).wdt = s.wdt := rfl
@[simp] theorem State.withCell_w1 (a : Nat) (v : Byte) : (s.withCell a v).w1 = s.w1 := rfl
@[simp] theorem State.withCell_w2 (a : Nat) (v : Byte) : (s.withCell a v).w2 = s.w2 := rfl
@[simp] theorem State.withCell_halted (a : Nat) (v : Byte) : (s.withCell a v).halted = s.halted := rfl
@[simp] theorem State.withCell_extPA (a : Nat) (v : Byte) : (s.withCell a v).extPA = s.extPA := rfl
@[simp] theorem State.withCell_extPB (a : Nat) (v : Byte) : (s.withCell a v).extPB = s.extPB := rfl
@[simp] theorem State.withCell_inputs (a : Nat) (v : Byte) : (s.withCell a v).inputs = s.inputs := rfl

/-! ### push -/

@[simp] theorem State.push_cfg : (s.push).cfg = s.cfg := rfl
@[simp] theorem State.push_rom : (s.push).rom = s.rom := rfl
@[simp] theorem State.push_pc : (s.push).pc = s.pc := rfl
@[simp] theorem State.push_stk : (s.push).stk = s.pc := rfl
@[simp] theorem State.push_stkv : (s.push).stkv = true := rfl
@[simp] theorem State.push_acc : (s.push).acc = s.acc := rfl
@[simp] theorem State.push_mp : (s.push).mp = s.mp := rfl
@[simp] theorem State.push_tblp : (s.push).tblp = s.tblp := rfl
@[simp] theorem State.push_tblh : (s.push).tblh = s.tblh := rfl
@[simp] theorem State.push_flagC : (s.push).flagC = s.flagC := rfl
@[simp] theorem State.push_flagAC : (s.push).flagAC = s.flagAC := rfl
@[simp] theorem State.push_flagZ : (s.push).flagZ = s.flagZ := rfl
@[simp] theorem State.push_flagOV : (s.push).flagOV = s.flagOV := rfl
@[simp] theorem State.push_flagPD : (s.push).flagPD = s.flagPD := rfl
@[simp] theorem State.push_flagTO : (s.push).flagTO = s.flagTO := rfl
@[simp] theorem State.push_paL : (s.push).paL = s.paL := rfl
@[simp] theorem State.push_pbL : (s.push).pbL = s.pbL := rfl
@[simp] theorem State.push_pc0L : (s.push).pc0L = s.pc0L := rfl
@[simp] theorem State.push_ram : (s.push).ram = s.ram := rfl
@[simp] theorem State.push_wdt : (s.push).wdt = s.wdt := rfl
@[simp] theorem State.push_w1 : (s.push).w1 = s.w1 := rfl
@[simp] theorem State.push_w2 : (s.push).w2 = s.w2 := rfl
@[simp] theorem State.push_halted : (s.push).halted = s.halted := rfl
@[simp] theorem State.push_extPA : (s.push).extPA = s.extPA := rfl
@[simp] theorem State.push_extPB : (s.push).extPB = s.extPB := rfl
@[simp] theorem State.push_inputs : (s.push).inputs = s.inputs := rfl

/-! ### pop -/

@[simp] theorem State.pop_cfg : (s.pop).cfg = s.cfg := rfl
@[simp] theorem State.pop_rom : (s.pop).rom = s.rom := rfl
@[simp] theorem State.pop_pc : (s.pop).pc = s.stk := rfl
@[simp] theorem State.pop_stk : (s.pop).stk = s.stk := rfl
@[simp] theorem State.pop_stkv : (s.pop).stkv = false := rfl
@[simp] theorem State.pop_acc : (s.pop).acc = s.acc := rfl
@[simp] theorem State.pop_mp : (s.pop).mp = s.mp := rfl
@[simp] theorem State.pop_tblp : (s.pop).tblp = s.tblp := rfl
@[simp] theorem State.pop_tblh : (s.pop).tblh = s.tblh := rfl
@[simp] theorem State.pop_flagC : (s.pop).flagC = s.flagC := rfl
@[simp] theorem State.pop_flagAC : (s.pop).flagAC = s.flagAC := rfl
@[simp] theorem State.pop_flagZ : (s.pop).flagZ = s.flagZ := rfl
@[simp] theorem State.pop_flagOV : (s.pop).flagOV = s.flagOV := rfl
@[simp] theorem State.pop_flagPD : (s.pop).flagPD = s.flagPD := rfl
@[simp] theorem State.pop_flagTO : (s.pop).flagTO = s.flagTO := rfl
@[simp] theorem State.pop_paL : (s.pop).paL = s.paL := rfl
@[simp] theorem State.pop_pbL : (s.pop).pbL = s.pbL := rfl
@[simp] theorem State.pop_pc0L : (s.pop).pc0L = s.pc0L := rfl
@[simp] theorem State.pop_ram : (s.pop).ram = s.ram := rfl
@[simp] theorem State.pop_wdt : (s.pop).wdt = s.wdt := rfl
@[simp] theorem State.pop_w1 : (s.pop).w1 = s.w1 := rfl
@[simp] theorem State.pop_w2 : (s.pop).w2 = s.w2 := rfl
@[simp] theorem State.pop_halted : (s.pop).halted = s.halted := rfl
@[simp] theorem State.pop_extPA : (s.pop).extPA = s.extPA := rfl
@[simp] theorem State.pop_extPB : (s.pop).extPB = s.extPB := rfl
@[simp] theorem State.pop_inputs : (s.pop).inputs = s.inputs := rfl

/-! ### clearWatchdog -/

@[simp] theorem State.clearWatchdog_cfg : (s.clearWatchdog).cfg = s.cfg := rfl
@[simp] theorem State.clearWatchdog_rom : (s.clearWatchdog).rom = s.rom := rfl
@[simp] theorem State.clearWatchdog_pc : (s.clearWatchdog).pc = s.pc := rfl
@[simp] theorem State.clearWatchdog_stk : (s.clearWatchdog).stk = s.stk := rfl
@[simp] theorem State.clearWatchdog_stkv : (s.clearWatchdog).stkv = s.stkv := rfl
@[simp] theorem State.clearWatchdog_acc : (s.clearWatchdog).acc = s.acc := rfl
@[simp] theorem State.clearWatchdog_mp : (s.clearWatchdog).mp = s.mp := rfl
@[simp] theorem State.clearWatchdog_tblp : (s.clearWatchdog).tblp = s.tblp := rfl
@[simp] theorem State.clearWatchdog_tblh : (s.clearWatchdog).tblh = s.tblh := rfl
@[simp] theorem State.clearWatchdog_flagC : (s.clearWatchdog).flagC = s.flagC := rfl
@[simp] theorem State.clearWatchdog_flagAC : (s.clearWatchdog).flagAC = s.flagAC := rfl
@[simp] theorem State.clearWatchdog_flagZ : (s.clearWatchdog).flagZ = s.flagZ := rfl
@[simp] theorem State.clearWatchdog_flagOV : (s.clearWatchdog).flagOV = s.flagOV := rfl
@[simp] theorem State.clearWatchdog_flagPD : (s.clearWatchdog).flagPD = false := rfl
@[simp] theorem State.clearWatchdog_flagTO : (s.clearWatchdog).flagTO = false := rfl
@[simp] theorem State.clearWatchdog_paL : (s.clearWatchdog).paL = s.paL := rfl
@[simp] theorem State.clearWatchdog_pbL : (s.clearWatchdog).pbL = s.pbL := rfl
@[simp] theorem State.clearWatchdog_pc0L : (s.clearWatchdog).pc0L = s.pc0L := rfl
@[simp] theorem State.clearWatchdog_ram : (s.clearWatchdog).ram = s.ram := rfl
@[simp] theorem State.clearWatchdog_wdt : (s.clearWatchdog).wdt = 0 := rfl
@[simp] theorem State.clearWatchdog_w1 : (s.clearWatchdog).w1 = s.w1 := rfl
@[simp] theorem State.clearWatchdog_w2 : (s.clearWatchdog).w2 = s.w2 := rfl
@[simp] theorem State.clearWatchdog_halted : (s.clearWatchdog).halted = s.halted := rfl
@[simp] theorem State.clearWatchdog_extPA : (s.clearWatchdog).extPA = s.extPA := rfl
@[simp] theorem State.clearWatchdog_extPB : (s.clearWatchdog).extPB = s.extPB := rfl
@[simp] theorem State.clearWatchdog_inputs : (s.clearWatchdog).inputs = s.inputs := rfl

/-! ### clearMarks -/

@[simp] theorem State.clearMarks_cfg : (s.clearMarks).cfg = s.cfg := rfl
@[simp] theorem State.clearMarks_rom : (s.clearMarks).rom = s.rom := rfl
@[simp] theorem State.clearMarks_pc : (s.clearMarks).pc = s.pc := rfl
@[simp] theorem State.clearMarks_stk : (s.clearMarks).stk = s.stk := rfl
@[simp] theorem State.clearMarks_stkv : (s.clearMarks).stkv = s.stkv := rfl
@[simp] theorem State.clearMarks_acc : (s.clearMarks).acc = s.acc := rfl
@[simp] theorem State.clearMarks_mp : (s.clearMarks).mp = s.mp := rfl
@[simp] theorem State.clearMarks_tblp : (s.clearMarks).tblp = s.tblp := rfl
@[simp] theorem State.clearMarks_tblh : (s.clearMarks).tblh = s.tblh := rfl
@[simp] theorem State.clearMarks_flagC : (s.clearMarks).flagC = s.flagC := rfl
@[simp] theorem State.clearMarks_flagAC : (s.clearMarks).flagAC = s.flagAC := rfl
@[simp] theorem State.clearMarks_flagZ : (s.clearMarks).flagZ = s.flagZ := rfl
@[simp] theorem State.clearMarks_flagOV : (s.clearMarks).flagOV = s.flagOV := rfl
@[simp] theorem State.clearMarks_flagPD : (s.clearMarks).flagPD = s.flagPD := rfl
@[simp] theorem State.clearMarks_flagTO : (s.clearMarks).flagTO = s.flagTO := rfl
@[simp] theorem State.clearMarks_paL : (s.clearMarks).paL = s.paL := rfl
@[simp] theorem State.clearMarks_pbL : (s.clearMarks).pbL = s.pbL := rfl
@[simp] theorem State.clearMarks_pc0L : (s.clearMarks).pc0L = s.pc0L := rfl
@[simp] theorem State.clearMarks_ram : (s.clearMarks).ram = s.ram := rfl
@[simp] theorem State.clearMarks_wdt : (s.clearMarks).wdt = s.wdt := rfl
@[simp] theorem State.clearMarks_w1 : (s.clearMarks).w1 = false := rfl
@[simp] theorem State.clearMarks_w2 : (s.clearMarks).w2 = false := rfl
@[simp] theorem State.clearMarks_halted : (s.clearMarks).halted = s.halted := rfl
@[simp] theorem State.clearMarks_extPA : (s.clearMarks).extPA = s.extPA := rfl
@[simp] theorem State.clearMarks_extPB : (s.clearMarks).extPB = s.extPB := rfl
@[simp] theorem State.clearMarks_inputs : (s.clearMarks).inputs = s.inputs := rfl

/-! ### mark1 -/

@[simp] theorem State.mark1_cfg : (s.mark1).cfg = s.cfg := rfl
@[simp] theorem State.mark1_rom : (s.mark1).rom = s.rom := rfl
@[simp] theorem State.mark1_pc : (s.mark1).pc = s.pc := rfl
@[simp] theorem State.mark1_stk : (s.mark1).stk = s.stk := rfl
@[simp] theorem State.mark1_stkv : (s.mark1).stkv = s.stkv := rfl
@[simp] theorem State.mark1_acc : (s.mark1).acc = s.acc := rfl
@[simp] theorem State.mark1_mp : (s.mark1).mp = s.mp := rfl
@[simp] theorem State.mark1_tblp : (s.mark1).tblp = s.tblp := rfl
@[simp] theorem State.mark1_tblh : (s.mark1).tblh = s.tblh := rfl
@[simp] theorem State.mark1_flagC : (s.mark1).flagC = s.flagC := rfl
@[simp] theorem State.mark1_flagAC : (s.mark1).flagAC = s.flagAC := rfl
@[simp] theorem State.mark1_flagZ : (s.mark1).flagZ = s.flagZ := rfl
@[simp] theorem State.mark1_flagOV : (s.mark1).flagOV = s.flagOV := rfl
@[simp] theorem State.mark1_flagPD : (s.mark1).flagPD = s.flagPD := rfl
@[simp] theorem State.mark1_flagTO : (s.mark1).flagTO = s.flagTO := rfl
@[simp] theorem State.mark1_paL : (s.mark1).paL = s.paL := rfl
@[simp] theorem State.mark1_pbL : (s.mark1).pbL = s.pbL := rfl
@[simp] theorem State.mark1_pc0L : (s.mark1).pc0L = s.pc0L := rfl
@[simp] theorem State.mark1_ram : (s.mark1).ram = s.ram := rfl
@[simp] theorem State.mark1_wdt : (s.mark1).wdt = s.wdt := rfl
@[simp] theorem State.mark1_w1 : (s.mark1).w1 = true := rfl
@[simp] theorem State.mark1_w2 : (s.mark1).w2 = s.w2 := rfl
@[simp] theorem State.mark1_halted : (s.mark1).halted = s.halted := rfl
@[simp] theorem State.mark1_extPA : (s.mark1).extPA = s.extPA := rfl
@[simp] theorem State.mark1_extPB : (s.mark1).extPB = s.extPB := rfl
@[simp] theorem State.mark1_inputs : (s.mark1).inputs = s.inputs := rfl

/-! ### mark2 -/

@[simp] theorem State.mark2_cfg : (s.mark2).cfg = s.cfg := rfl
@[simp] theorem State.mark2_rom : (s.mark2).rom = s.rom := rfl
@[simp] theorem State.mark2_pc : (s.mark2).pc = s.pc := rfl
@[simp] theorem State.mark2_stk : (s.mark2).stk = s.stk := rfl
@[simp] theorem State.mark2_stkv : (s.mark2).stkv = s.stkv := rfl
@[simp] theorem State.mark2_acc : (s.mark2).acc = s.acc := rfl
@[simp] theorem State.mark2_mp : (s.mark2).mp = s.mp := rfl
@[simp] theorem State.mark2_tblp : (s.mark2).tblp = s.tblp := rfl
@[simp] theorem State.mark2_tblh : (s.mark2).tblh = s.tblh := rfl
@[simp] theorem State.mark2_flagC : (s.mark2).flagC = s.flagC := rfl
@[simp] theorem State.mark2_flagAC : (s.mark2).flagAC = s.flagAC := rfl
@[simp] theorem State.mark2_flagZ : (s.mark2).flagZ = s.flagZ := rfl
@[simp] theorem State.mark2_flagOV : (s.mark2).flagOV = s.flagOV := rfl
@[simp] theorem State.mark2_flagPD : (s.mark2).flagPD = s.flagPD := rfl
@[simp] theorem State.mark2_flagTO : (s.mark2).flagTO = s.flagTO := rfl
@[simp] theorem State.mark2_paL : (s.mark2).paL = s.paL := rfl
@[simp] theorem State.mark2_pbL : (s.mark2).pbL = s.pbL := rfl
@[simp] theorem State.mark2_pc0L : (s.mark2).pc0L = s.pc0L := rfl
@[simp] theorem State.mark2_ram : (s.mark2).ram = s.ram := rfl
@[simp] theorem State.mark2_wdt : (s.mark2).wdt = s.wdt := rfl
@[simp] theorem State.mark2_w1 : (s.mark2).w1 = s.w1 := rfl
@[simp] theorem State.mark2_w2 : (s.mark2).w2 = true := rfl
@[simp] theorem State.mark2_halted : (s.mark2).halted = s.halted := rfl
@[simp] theorem State.mark2_extPA : (s.mark2).extPA = s.extPA := rfl
@[simp] theorem State.mark2_extPB : (s.mark2).extPB = s.extPB := rfl
@[simp] theorem State.mark2_inputs : (s.mark2).inputs = s.inputs := rfl

/-! ### withStatus -/

@[simp] theorem State.withStatus_cfg (v : Byte) : (s.withStatus v).cfg = s.cfg := rfl
@[simp] theorem State.withStatus_rom (v : Byte) : (s.withStatus v).rom = s.rom := rfl
@[simp] theorem State.withStatus_pc (v : Byte) : (s.withStatus v).pc = s.pc := rfl
@[simp] theorem State.withStatus_stk (v : Byte) : (s.withStatus v).stk = s.stk := rfl
@[simp] theorem State.withStatus_stkv (v : Byte) : (s.withStatus v).stkv = s.stkv := rfl
@[simp] theorem State.withStatus_acc (v : Byte) : (s.withStatus v).acc = s.acc := rfl
@[simp] theorem State.withStatus_mp (v : Byte) : (s.withStatus v).mp = s.mp := rfl
@[simp] theorem State.withStatus_tblp (v : Byte) : (s.withStatus v).tblp = s.tblp := rfl
@[simp] theorem State.withStatus_tblh (v : Byte) : (s.withStatus v).tblh = s.tblh := rfl
@[simp] theorem State.withStatus_flagC (v : Byte) : (s.withStatus v).flagC = v.getLsbD 0 := rfl
@[simp] theorem State.withStatus_flagAC (v : Byte) : (s.withStatus v).flagAC = v.getLsbD 1 := rfl
@[simp] theorem State.withStatus_flagZ (v : Byte) : (s.withStatus v).flagZ = v.getLsbD 2 := rfl
@[simp] theorem State.withStatus_flagOV (v : Byte) : (s.withStatus v).flagOV = v.getLsbD 3 := rfl
@[simp] theorem State.withStatus_flagPD (v : Byte) : (s.withStatus v).flagPD = s.flagPD := rfl
@[simp] theorem State.withStatus_flagTO (v : Byte) : (s.withStatus v).flagTO = s.flagTO := rfl
@[simp] theorem State.withStatus_paL (v : Byte) : (s.withStatus v).paL = s.paL := rfl
@[simp] theorem State.withStatus_pbL (v : Byte) : (s.withStatus v).pbL = s.pbL := rfl
@[simp] theorem State.withStatus_pc0L (v : Byte) : (s.withStatus v).pc0L = s.pc0L := rfl
@[simp] theorem State.withStatus_ram (v : Byte) : (s.withStatus v).ram = s.ram := rfl
@[simp] theorem State.withStatus_wdt (v : Byte) : (s.withStatus v).wdt = s.wdt := rfl
@[simp] theorem State.withStatus_w1 (v : Byte) : (s.withStatus v).w1 = s.w1 := rfl
@[simp] theorem State.withStatus_w2 (v : Byte) : (s.withStatus v).w2 = s.w2 := rfl
@[simp] theorem State.withStatus_halted (v : Byte) : (s.withStatus v).halted = s.halted := rfl
@[simp] theorem State.withStatus_extPA (v : Byte) : (s.withStatus v).extPA = s.extPA := rfl
@[simp] theorem State.withStatus_extPB (v : Byte) : (s.withStatus v).extPB = s.extPB := rfl
@[simp] theorem State.withStatus_inputs (v : Byte) : (s.withStatus v).inputs = s.inputs := rfl

/-! ### withMp -/

@[simp] theorem State.withMp_cfg (v : Byte) : (s.withMp v).cfg = s.cfg := rfl
@[simp] theorem State.withMp_rom (v : Byte) : (s.withMp v).rom = s.rom := rfl
@[simp] theorem State.withMp_pc (v : Byte) : (s.withMp v).pc = s.pc := rfl
@[simp] theorem State.withMp_stk (v : Byte) : (s.withMp v).stk = s.stk := rfl
@[simp] theorem State.withMp_stkv (v : Byte) : (s.withMp v).stkv = s.stkv := rfl
@[simp] theorem State.withMp_acc (v : Byte) : (s.withMp v).acc = s.acc := rfl
@[simp] theorem State.withMp_mp (v : Byte) : (s.withMp v).mp = v.extractLsb' 0 6 := rfl
@[simp] theorem State.withMp_tblp (v : Byte) : (s.withMp v).tblp = s.tblp := rfl
@[simp] theorem State.withMp_tblh (v : Byte) : (s.withMp v).tblh = s.tblh := rfl
@[simp] theorem State.withMp_flagC (v : Byte) : (s.withMp v).flagC = s.flagC := rfl
@[simp] theorem State.withMp_flagAC (v : Byte) : (s.withMp v).flagAC = s.flagAC := rfl
@[simp] theorem State.withMp_flagZ (v : Byte) : (s.withMp v).flagZ = s.flagZ := rfl
@[simp] theorem State.withMp_flagOV (v : Byte) : (s.withMp v).flagOV = s.flagOV := rfl
@[simp] theorem State.withMp_flagPD (v : Byte) : (s.withMp v).flagPD = s.flagPD := rfl
@[simp] theorem State.withMp_flagTO (v : Byte) : (s.withMp v).flagTO = s.flagTO := rfl
@[simp] theorem State.withMp_paL (v : Byte) : (s.withMp v).paL = s.paL := rfl
@[simp] theorem State.withMp_pbL (v : Byte) : (s.withMp v).pbL = s.pbL := rfl
@[simp] theorem State.withMp_pc0L (v : Byte) : (s.withMp v).pc0L = s.pc0L := rfl
@[simp] theorem State.withMp_ram (v : Byte) : (s.withMp v).ram = s.ram := rfl
@[simp] theorem State.withMp_wdt (v : Byte) : (s.withMp v).wdt = s.wdt := rfl
@[simp] theorem State.withMp_w1 (v : Byte) : (s.withMp v).w1 = s.w1 := rfl
@[simp] theorem State.withMp_w2 (v : Byte) : (s.withMp v).w2 = s.w2 := rfl
@[simp] theorem State.withMp_halted (v : Byte) : (s.withMp v).halted = s.halted := rfl
@[simp] theorem State.withMp_extPA (v : Byte) : (s.withMp v).extPA = s.extPA := rfl
@[simp] theorem State.withMp_extPB (v : Byte) : (s.withMp v).extPB = s.extPB := rfl
@[simp] theorem State.withMp_inputs (v : Byte) : (s.withMp v).inputs = s.inputs := rfl

/-! ### withTblp -/

@[simp] theorem State.withTblp_cfg (v : Byte) : (s.withTblp v).cfg = s.cfg := rfl
@[simp] theorem State.withTblp_rom (v : Byte) : (s.withTblp v).rom = s.rom := rfl
@[simp] theorem State.withTblp_pc (v : Byte) : (s.withTblp v).pc = s.pc := rfl
@[simp] theorem State.withTblp_stk (v : Byte) : (s.withTblp v).stk = s.stk := rfl
@[simp] theorem State.withTblp_stkv (v : Byte) : (s.withTblp v).stkv = s.stkv := rfl
@[simp] theorem State.withTblp_acc (v : Byte) : (s.withTblp v).acc = s.acc := rfl
@[simp] theorem State.withTblp_mp (v : Byte) : (s.withTblp v).mp = s.mp := rfl
@[simp] theorem State.withTblp_tblp (v : Byte) : (s.withTblp v).tblp = v := rfl
@[simp] theorem State.withTblp_tblh (v : Byte) : (s.withTblp v).tblh = s.tblh := rfl
@[simp] theorem State.withTblp_flagC (v : Byte) : (s.withTblp v).flagC = s.flagC := rfl
@[simp] theorem State.withTblp_flagAC (v : Byte) : (s.withTblp v).flagAC = s.flagAC := rfl
@[simp] theorem State.withTblp_flagZ (v : Byte) : (s.withTblp v).flagZ = s.flagZ := rfl
@[simp] theorem State.withTblp_flagOV (v : Byte) : (s.withTblp v).flagOV = s.flagOV := rfl
@[simp] theorem State.withTblp_flagPD (v : Byte) : (s.withTblp v).flagPD = s.flagPD := rfl
@[simp] theorem State.withTblp_flagTO (v : Byte) : (s.withTblp v).flagTO = s.flagTO := rfl
@[simp] theorem State.withTblp_paL (v : Byte) : (s.withTblp v).paL = s.paL := rfl
@[simp] theorem State.withTblp_pbL (v : Byte) : (s.withTblp v).pbL = s.pbL := rfl
@[simp] theorem State.withTblp_pc0L (v : Byte) : (s.withTblp v).pc0L = s.pc0L := rfl
@[simp] theorem State.withTblp_ram (v : Byte) : (s.withTblp v).ram = s.ram := rfl
@[simp] theorem State.withTblp_wdt (v : Byte) : (s.withTblp v).wdt = s.wdt := rfl
@[simp] theorem State.withTblp_w1 (v : Byte) : (s.withTblp v).w1 = s.w1 := rfl
@[simp] theorem State.withTblp_w2 (v : Byte) : (s.withTblp v).w2 = s.w2 := rfl
@[simp] theorem State.withTblp_halted (v : Byte) : (s.withTblp v).halted = s.halted := rfl
@[simp] theorem State.withTblp_extPA (v : Byte) : (s.withTblp v).extPA = s.extPA := rfl
@[simp] theorem State.withTblp_extPB (v : Byte) : (s.withTblp v).extPB = s.extPB := rfl
@[simp] theorem State.withTblp_inputs (v : Byte) : (s.withTblp v).inputs = s.inputs := rfl

/-! ### withPcl -/

@[simp] theorem State.withPcl_cfg (v : Byte) : (s.withPcl v).cfg = s.cfg := rfl
@[simp] theorem State.withPcl_rom (v : Byte) : (s.withPcl v).rom = s.rom := rfl
@[simp] theorem State.withPcl_pc (v : Byte) : (s.withPcl v).pc = s.pc.extractLsb' 8 2 ++ v := rfl
@[simp] theorem State.withPcl_stk (v : Byte) : (s.withPcl v).stk = s.stk := rfl
@[simp] theorem State.withPcl_stkv (v : Byte) : (s.withPcl v).stkv = s.stkv := rfl
@[simp] theorem State.withPcl_acc (v : Byte) : (s.withPcl v).acc = s.acc := rfl
@[simp] theorem State.withPcl_mp (v : Byte) : (s.withPcl v).mp = s.mp := rfl
@[simp] theorem State.withPcl_tblp (v : Byte) : (s.withPcl v).tblp = s.tblp := rfl
@[simp] theorem State.withPcl_tblh (v : Byte) : (s.withPcl v).tblh = s.tblh := rfl
@[simp] theorem State.withPcl_flagC (v : Byte) : (s.withPcl v).flagC = s.flagC := rfl
@[simp] theorem State.withPcl_flagAC (v : Byte) : (s.withPcl v).flagAC = s.flagAC := rfl
@[simp] theorem State.withPcl_flagZ (v : Byte) : (s.withPcl v).flagZ = s.flagZ := rfl
@[simp] theorem State.withPcl_flagOV (v : Byte) : (s.withPcl v).flagOV = s.flagOV := rfl
@[simp] theorem State.withPcl_flagPD (v : Byte) : (s.withPcl v).flagPD = s.flagPD := rfl
@[simp] theorem State.withPcl_flagTO (v : Byte) : (s.withPcl v).flagTO = s.flagTO := rfl
@[simp] theorem State.withPcl_paL (v : Byte) : (s.withPcl v).paL = s.paL := rfl
@[simp] theorem State.withPcl_pbL (v : Byte) : (s.withPcl v).pbL = s.pbL := rfl
@[simp] theorem State.withPcl_pc0L (v : Byte) : (s.withPcl v).pc0L = s.pc0L := rfl
@[simp] theorem State.withPcl_ram (v : Byte) : (s.withPcl v).ram = s.ram := rfl
@[simp] theorem State.withPcl_wdt (v : Byte) : (s.withPcl v).wdt = s.wdt := rfl
@[simp] theorem State.withPcl_w1 (v : Byte) : (s.withPcl v).w1 = s.w1 := rfl
@[simp] theorem State.withPcl_w2 (v : Byte) : (s.withPcl v).w2 = s.w2 := rfl
@[simp] theorem State.withPcl_halted (v : Byte) : (s.withPcl v).halted = s.halted := rfl
@[simp] theorem State.withPcl_extPA (v : Byte) : (s.withPcl v).extPA = s.extPA := rfl
@[simp] theorem State.withPcl_extPB (v : Byte) : (s.withPcl v).extPB = s.extPB := rfl
@[simp] theorem State.withPcl_inputs (v : Byte) : (s.withPcl v).inputs = s.inputs := rfl

/-! ### withPaL -/

@[simp] theorem State.withPaL_cfg (v : Byte) : (s.withPaL v).cfg = s.cfg := rfl
@[simp] theorem State.withPaL_rom (v : Byte) : (s.withPaL v).rom = s.rom := rfl
@[simp] theorem State.withPaL_pc (v : Byte) : (s.withPaL v).pc = s.pc := rfl
@[simp] theorem State.withPaL_stk (v : Byte) : (s.withPaL v).stk = s.stk := rfl
@[simp] theorem State.withPaL_stkv (v : Byte) : (s.withPaL v).stkv = s.stkv := rfl
@[simp] theorem State.withPaL_acc (v : Byte) : (s.withPaL v).acc = s.acc := rfl
@[simp] theorem State.withPaL_mp (v : Byte) : (s.withPaL v).mp = s.mp := rfl
@[simp] theorem State.withPaL_tblp (v : Byte) : (s.withPaL v).tblp = s.tblp := rfl
@[simp] theorem State.withPaL_tblh (v : Byte) : (s.withPaL v).tblh = s.tblh := rfl
@[simp] theorem State.withPaL_flagC (v : Byte) : (s.withPaL v).flagC = s.flagC := rfl
@[simp] theorem State.withPaL_flagAC (v : Byte) : (s.withPaL v).flagAC = s.flagAC := rfl
@[simp] theorem State.withPaL_flagZ (v : Byte) : (s.withPaL v).flagZ = s.flagZ := rfl
@[simp] theorem State.withPaL_flagOV (v : Byte) : (s.withPaL v).flagOV = s.flagOV := rfl
@[simp] theorem State.withPaL_flagPD (v : Byte) : (s.withPaL v).flagPD = s.flagPD := rfl
@[simp] theorem State.withPaL_flagTO (v : Byte) : (s.withPaL v).flagTO = s.flagTO := rfl
@[simp] theorem State.withPaL_paL (v : Byte) : (s.withPaL v).paL = v := rfl
@[simp] theorem State.withPaL_pbL (v : Byte) : (s.withPaL v).pbL = s.pbL := rfl
@[simp] theorem State.withPaL_pc0L (v : Byte) : (s.withPaL v).pc0L = s.pc0L := rfl
@[simp] theorem State.withPaL_ram (v : Byte) : (s.withPaL v).ram = s.ram := rfl
@[simp] theorem State.withPaL_wdt (v : Byte) : (s.withPaL v).wdt = s.wdt := rfl
@[simp] theorem State.withPaL_w1 (v : Byte) : (s.withPaL v).w1 = s.w1 := rfl
@[simp] theorem State.withPaL_w2 (v : Byte) : (s.withPaL v).w2 = s.w2 := rfl
@[simp] theorem State.withPaL_halted (v : Byte) : (s.withPaL v).halted = s.halted := rfl
@[simp] theorem State.withPaL_extPA (v : Byte) : (s.withPaL v).extPA = s.extPA := rfl
@[simp] theorem State.withPaL_extPB (v : Byte) : (s.withPaL v).extPB = s.extPB := rfl
@[simp] theorem State.withPaL_inputs (v : Byte) : (s.withPaL v).inputs = s.inputs := rfl

/-! ### withPbL -/

@[simp] theorem State.withPbL_cfg (v : Byte) : (s.withPbL v).cfg = s.cfg := rfl
@[simp] theorem State.withPbL_rom (v : Byte) : (s.withPbL v).rom = s.rom := rfl
@[simp] theorem State.withPbL_pc (v : Byte) : (s.withPbL v).pc = s.pc := rfl
@[simp] theorem State.withPbL_stk (v : Byte) : (s.withPbL v).stk = s.stk := rfl
@[simp] theorem State.withPbL_stkv (v : Byte) : (s.withPbL v).stkv = s.stkv := rfl
@[simp] theorem State.withPbL_acc (v : Byte) : (s.withPbL v).acc = s.acc := rfl
@[simp] theorem State.withPbL_mp (v : Byte) : (s.withPbL v).mp = s.mp := rfl
@[simp] theorem State.withPbL_tblp (v : Byte) : (s.withPbL v).tblp = s.tblp := rfl
@[simp] theorem State.withPbL_tblh (v : Byte) : (s.withPbL v).tblh = s.tblh := rfl
@[simp] theorem State.withPbL_flagC (v : Byte) : (s.withPbL v).flagC = s.flagC := rfl
@[simp] theorem State.withPbL_flagAC (v : Byte) : (s.withPbL v).flagAC = s.flagAC := rfl
@[simp] theorem State.withPbL_flagZ (v : Byte) : (s.withPbL v).flagZ = s.flagZ := rfl
@[simp] theorem State.withPbL_flagOV (v : Byte) : (s.withPbL v).flagOV = s.flagOV := rfl
@[simp] theorem State.withPbL_flagPD (v : Byte) : (s.withPbL v).flagPD = s.flagPD := rfl
@[simp] theorem State.withPbL_flagTO (v : Byte) : (s.withPbL v).flagTO = s.flagTO := rfl
@[simp] theorem State.withPbL_paL (v : Byte) : (s.withPbL v).paL = s.paL := rfl
@[simp] theorem State.withPbL_pbL (v : Byte) : (s.withPbL v).pbL = v.extractLsb' 0 2 := rfl
@[simp] theorem State.withPbL_pc0L (v : Byte) : (s.withPbL v).pc0L = s.pc0L := rfl
@[simp] theorem State.withPbL_ram (v : Byte) : (s.withPbL v).ram = s.ram := rfl
@[simp] theorem State.withPbL_wdt (v : Byte) : (s.withPbL v).wdt = s.wdt := rfl
@[simp] theorem State.withPbL_w1 (v : Byte) : (s.withPbL v).w1 = s.w1 := rfl
@[simp] theorem State.withPbL_w2 (v : Byte) : (s.withPbL v).w2 = s.w2 := rfl
@[simp] theorem State.withPbL_halted (v : Byte) : (s.withPbL v).halted = s.halted := rfl
@[simp] theorem State.withPbL_extPA (v : Byte) : (s.withPbL v).extPA = s.extPA := rfl
@[simp] theorem State.withPbL_extPB (v : Byte) : (s.withPbL v).extPB = s.extPB := rfl
@[simp] theorem State.withPbL_inputs (v : Byte) : (s.withPbL v).inputs = s.inputs := rfl

/-! ### withPc0L -/

@[simp] theorem State.withPc0L_cfg (v : Byte) : (s.withPc0L v).cfg = s.cfg := rfl
@[simp] theorem State.withPc0L_rom (v : Byte) : (s.withPc0L v).rom = s.rom := rfl
@[simp] theorem State.withPc0L_pc (v : Byte) : (s.withPc0L v).pc = s.pc := rfl
@[simp] theorem State.withPc0L_stk (v : Byte) : (s.withPc0L v).stk = s.stk := rfl
@[simp] theorem State.withPc0L_stkv (v : Byte) : (s.withPc0L v).stkv = s.stkv := rfl
@[simp] theorem State.withPc0L_acc (v : Byte) : (s.withPc0L v).acc = s.acc := rfl
@[simp] theorem State.withPc0L_mp (v : Byte) : (s.withPc0L v).mp = s.mp := rfl
@[simp] theorem State.withPc0L_tblp (v : Byte) : (s.withPc0L v).tblp = s.tblp := rfl
@[simp] theorem State.withPc0L_tblh (v : Byte) : (s.withPc0L v).tblh = s.tblh := rfl
@[simp] theorem State.withPc0L_flagC (v : Byte) : (s.withPc0L v).flagC = s.flagC := rfl
@[simp] theorem State.withPc0L_flagAC (v : Byte) : (s.withPc0L v).flagAC = s.flagAC := rfl
@[simp] theorem State.withPc0L_flagZ (v : Byte) : (s.withPc0L v).flagZ = s.flagZ := rfl
@[simp] theorem State.withPc0L_flagOV (v : Byte) : (s.withPc0L v).flagOV = s.flagOV := rfl
@[simp] theorem State.withPc0L_flagPD (v : Byte) : (s.withPc0L v).flagPD = s.flagPD := rfl
@[simp] theorem State.withPc0L_flagTO (v : Byte) : (s.withPc0L v).flagTO = s.flagTO := rfl
@[simp] theorem State.withPc0L_paL (v : Byte) : (s.withPc0L v).paL = s.paL := rfl
@[simp] theorem State.withPc0L_pbL (v : Byte) : (s.withPc0L v).pbL = s.pbL := rfl
@[simp] theorem State.withPc0L_pc0L (v : Byte) : (s.withPc0L v).pc0L = v.getLsbD 0 := rfl
@[simp] theorem State.withPc0L_ram (v : Byte) : (s.withPc0L v).ram = s.ram := rfl
@[simp] theorem State.withPc0L_wdt (v : Byte) : (s.withPc0L v).wdt = s.wdt := rfl
@[simp] theorem State.withPc0L_w1 (v : Byte) : (s.withPc0L v).w1 = s.w1 := rfl
@[simp] theorem State.withPc0L_w2 (v : Byte) : (s.withPc0L v).w2 = s.w2 := rfl
@[simp] theorem State.withPc0L_halted (v : Byte) : (s.withPc0L v).halted = s.halted := rfl
@[simp] theorem State.withPc0L_extPA (v : Byte) : (s.withPc0L v).extPA = s.extPA := rfl
@[simp] theorem State.withPc0L_extPB (v : Byte) : (s.withPc0L v).extPB = s.extPB := rfl
@[simp] theorem State.withPc0L_inputs (v : Byte) : (s.withPc0L v).inputs = s.inputs := rfl

/-! ### resetCommon -/

@[simp] theorem State.resetCommon_cfg : (s.resetCommon).cfg = s.cfg := rfl
@[simp] theorem State.resetCommon_rom : (s.resetCommon).rom = s.rom := rfl
@[simp] theorem State.resetCommon_pc : (s.resetCommon).pc = 0x000#10 := rfl
@[simp] theorem State.resetCommon_stk : (s.resetCommon).stk = s.stk := rfl
@[simp] theorem State.resetCommon_stkv : (s.resetCommon).stkv = false := rfl
@[simp] theorem State.resetCommon_acc : (s.resetCommon).acc = s.acc := rfl
@[simp] theorem State.resetCommon_mp : (s.resetCommon).mp = s.mp := rfl
@[simp] theorem State.resetCommon_tblp : (s.resetCommon).tblp = s.tblp := rfl
@[simp] theorem State.resetCommon_tblh : (s.resetCommon).tblh = s.tblh := rfl
@[simp] theorem State.resetCommon_flagC : (s.resetCommon).flagC = s.flagC := rfl
@[simp] theorem State.resetCommon_flagAC : (s.resetCommon).flagAC = s.flagAC := rfl
@[simp] theorem State.resetCommon_flagZ : (s.resetCommon).flagZ = s.flagZ := rfl
@[simp] theorem State.resetCommon_flagOV : (s.resetCommon).flagOV = s.flagOV := rfl
@[simp] theorem State.resetCommon_flagPD : (s.resetCommon).flagPD = s.flagPD := rfl
@[simp] theorem State.resetCommon_flagTO : (s.resetCommon).flagTO = s.flagTO := rfl
@[simp] theorem State.resetCommon_paL : (s.resetCommon).paL = 0xFF#8 := rfl
@[simp] theorem State.resetCommon_pbL : (s.resetCommon).pbL = 0b11#2 := rfl
@[simp] theorem State.resetCommon_pc0L : (s.resetCommon).pc0L = true := rfl
@[simp] theorem State.resetCommon_ram : (s.resetCommon).ram = s.ram := rfl
@[simp] theorem State.resetCommon_wdt : (s.resetCommon).wdt = 0 := rfl
@[simp] theorem State.resetCommon_w1 : (s.resetCommon).w1 = false := rfl
@[simp] theorem State.resetCommon_w2 : (s.resetCommon).w2 = false := rfl
@[simp] theorem State.resetCommon_halted : (s.resetCommon).halted = false := rfl
@[simp] theorem State.resetCommon_extPA : (s.resetCommon).extPA = s.extPA := rfl
@[simp] theorem State.resetCommon_extPB : (s.resetCommon).extPB = s.extPB := rfl
@[simp] theorem State.resetCommon_inputs : (s.resetCommon).inputs = s.inputs := rfl

/-! ### withUnknowns -/

@[simp] theorem State.withUnknowns_cfg (u : PowerOnValues) : (s.withUnknowns u).cfg = s.cfg := rfl
@[simp] theorem State.withUnknowns_rom (u : PowerOnValues) : (s.withUnknowns u).rom = s.rom := rfl
@[simp] theorem State.withUnknowns_pc (u : PowerOnValues) : (s.withUnknowns u).pc = s.pc := rfl
@[simp] theorem State.withUnknowns_stk (u : PowerOnValues) : (s.withUnknowns u).stk = u.stk := rfl
@[simp] theorem State.withUnknowns_stkv (u : PowerOnValues) : (s.withUnknowns u).stkv = s.stkv := rfl
@[simp] theorem State.withUnknowns_acc (u : PowerOnValues) : (s.withUnknowns u).acc = u.acc := rfl
@[simp] theorem State.withUnknowns_mp (u : PowerOnValues) : (s.withUnknowns u).mp = u.mp := rfl
@[simp] theorem State.withUnknowns_tblp (u : PowerOnValues) : (s.withUnknowns u).tblp = u.tblp := rfl
@[simp] theorem State.withUnknowns_tblh (u : PowerOnValues) : (s.withUnknowns u).tblh = u.tblh := rfl
@[simp] theorem State.withUnknowns_flagC (u : PowerOnValues) : (s.withUnknowns u).flagC = u.flagC := rfl
@[simp] theorem State.withUnknowns_flagAC (u : PowerOnValues) : (s.withUnknowns u).flagAC = u.flagAC := rfl
@[simp] theorem State.withUnknowns_flagZ (u : PowerOnValues) : (s.withUnknowns u).flagZ = u.flagZ := rfl
@[simp] theorem State.withUnknowns_flagOV (u : PowerOnValues) : (s.withUnknowns u).flagOV = u.flagOV := rfl
@[simp] theorem State.withUnknowns_flagPD (u : PowerOnValues) : (s.withUnknowns u).flagPD = s.flagPD := rfl
@[simp] theorem State.withUnknowns_flagTO (u : PowerOnValues) : (s.withUnknowns u).flagTO = s.flagTO := rfl
@[simp] theorem State.withUnknowns_paL (u : PowerOnValues) : (s.withUnknowns u).paL = s.paL := rfl
@[simp] theorem State.withUnknowns_pbL (u : PowerOnValues) : (s.withUnknowns u).pbL = s.pbL := rfl
@[simp] theorem State.withUnknowns_pc0L (u : PowerOnValues) : (s.withUnknowns u).pc0L = s.pc0L := rfl
@[simp] theorem State.withUnknowns_ram (u : PowerOnValues) : (s.withUnknowns u).ram = Memory.fill 0x40 0x20 u.ram [] := rfl
@[simp] theorem State.withUnknowns_wdt (u : PowerOnValues) : (s.withUnknowns u).wdt = s.wdt := rfl
@[simp] theorem State.withUnknowns_w1 (u : PowerOnValues) : (s.withUnknowns u).w1 = s.w1 := rfl
@[simp] theorem State.withUnknowns_w2 (u : PowerOnValues) : (s.withUnknowns u).w2 = s.w2 := rfl
@[simp] theorem State.withUnknowns_halted (u : PowerOnValues) : (s.withUnknowns u).halted = s.halted := rfl
@[simp] theorem State.withUnknowns_extPA (u : PowerOnValues) : (s.withUnknowns u).extPA = s.extPA := rfl
@[simp] theorem State.withUnknowns_extPB (u : PowerOnValues) : (s.withUnknowns u).extPB = s.extPB := rfl
@[simp] theorem State.withUnknowns_inputs (u : PowerOnValues) : (s.withUnknowns u).inputs = s.inputs := rfl

/-! ### withCause -/

@[simp] theorem State.withCause_cfg (cto cpd : Bool) : (s.withCause cto cpd).cfg = s.cfg := rfl
@[simp] theorem State.withCause_rom (cto cpd : Bool) : (s.withCause cto cpd).rom = s.rom := rfl
@[simp] theorem State.withCause_pc (cto cpd : Bool) : (s.withCause cto cpd).pc = s.pc := rfl
@[simp] theorem State.withCause_stk (cto cpd : Bool) : (s.withCause cto cpd).stk = s.stk := rfl
@[simp] theorem State.withCause_stkv (cto cpd : Bool) : (s.withCause cto cpd).stkv = s.stkv := rfl
@[simp] theorem State.withCause_acc (cto cpd : Bool) : (s.withCause cto cpd).acc = s.acc := rfl
@[simp] theorem State.withCause_mp (cto cpd : Bool) : (s.withCause cto cpd).mp = s.mp := rfl
@[simp] theorem State.withCause_tblp (cto cpd : Bool) : (s.withCause cto cpd).tblp = s.tblp := rfl
@[simp] theorem State.withCause_tblh (cto cpd : Bool) : (s.withCause cto cpd).tblh = s.tblh := rfl
@[simp] theorem State.withCause_flagC (cto cpd : Bool) : (s.withCause cto cpd).flagC = s.flagC := rfl
@[simp] theorem State.withCause_flagAC (cto cpd : Bool) : (s.withCause cto cpd).flagAC = s.flagAC := rfl
@[simp] theorem State.withCause_flagZ (cto cpd : Bool) : (s.withCause cto cpd).flagZ = s.flagZ := rfl
@[simp] theorem State.withCause_flagOV (cto cpd : Bool) : (s.withCause cto cpd).flagOV = s.flagOV := rfl
@[simp] theorem State.withCause_flagPD (cto cpd : Bool) : (s.withCause cto cpd).flagPD = cpd := rfl
@[simp] theorem State.withCause_flagTO (cto cpd : Bool) : (s.withCause cto cpd).flagTO = cto := rfl
@[simp] theorem State.withCause_paL (cto cpd : Bool) : (s.withCause cto cpd).paL = s.paL := rfl
@[simp] theorem State.withCause_pbL (cto cpd : Bool) : (s.withCause cto cpd).pbL = s.pbL := rfl
@[simp] theorem State.withCause_pc0L (cto cpd : Bool) : (s.withCause cto cpd).pc0L = s.pc0L := rfl
@[simp] theorem State.withCause_ram (cto cpd : Bool) : (s.withCause cto cpd).ram = s.ram := rfl
@[simp] theorem State.withCause_wdt (cto cpd : Bool) : (s.withCause cto cpd).wdt = s.wdt := rfl
@[simp] theorem State.withCause_w1 (cto cpd : Bool) : (s.withCause cto cpd).w1 = s.w1 := rfl
@[simp] theorem State.withCause_w2 (cto cpd : Bool) : (s.withCause cto cpd).w2 = s.w2 := rfl
@[simp] theorem State.withCause_halted (cto cpd : Bool) : (s.withCause cto cpd).halted = s.halted := rfl
@[simp] theorem State.withCause_extPA (cto cpd : Bool) : (s.withCause cto cpd).extPA = s.extPA := rfl
@[simp] theorem State.withCause_extPB (cto cpd : Bool) : (s.withCause cto cpd).extPB = s.extPB := rfl
@[simp] theorem State.withCause_inputs (cto cpd : Bool) : (s.withCause cto cpd).inputs = s.inputs := rfl

/-! ### wake -/

@[simp] theorem State.wake_cfg : (s.wake).cfg = s.cfg := rfl
@[simp] theorem State.wake_rom : (s.wake).rom = s.rom := rfl
@[simp] theorem State.wake_pc : (s.wake).pc = s.pc := rfl
@[simp] theorem State.wake_stk : (s.wake).stk = s.stk := rfl
@[simp] theorem State.wake_stkv : (s.wake).stkv = s.stkv := rfl
@[simp] theorem State.wake_acc : (s.wake).acc = s.acc := rfl
@[simp] theorem State.wake_mp : (s.wake).mp = s.mp := rfl
@[simp] theorem State.wake_tblp : (s.wake).tblp = s.tblp := rfl
@[simp] theorem State.wake_tblh : (s.wake).tblh = s.tblh := rfl
@[simp] theorem State.wake_flagC : (s.wake).flagC = s.flagC := rfl
@[simp] theorem State.wake_flagAC : (s.wake).flagAC = s.flagAC := rfl
@[simp] theorem State.wake_flagZ : (s.wake).flagZ = s.flagZ := rfl
@[simp] theorem State.wake_flagOV : (s.wake).flagOV = s.flagOV := rfl
@[simp] theorem State.wake_flagPD : (s.wake).flagPD = s.flagPD := rfl
@[simp] theorem State.wake_flagTO : (s.wake).flagTO = s.flagTO := rfl
@[simp] theorem State.wake_paL : (s.wake).paL = s.paL := rfl
@[simp] theorem State.wake_pbL : (s.wake).pbL = s.pbL := rfl
@[simp] theorem State.wake_pc0L : (s.wake).pc0L = s.pc0L := rfl
@[simp] theorem State.wake_ram : (s.wake).ram = s.ram := rfl
@[simp] theorem State.wake_wdt : (s.wake).wdt = s.wdt := rfl
@[simp] theorem State.wake_w1 : (s.wake).w1 = s.w1 := rfl
@[simp] theorem State.wake_w2 : (s.wake).w2 = s.w2 := rfl
@[simp] theorem State.wake_halted : (s.wake).halted = false := rfl
@[simp] theorem State.wake_extPA : (s.wake).extPA = s.extPA := rfl
@[simp] theorem State.wake_extPB : (s.wake).extPB = s.extPB := rfl
@[simp] theorem State.wake_inputs : (s.wake).inputs = s.inputs := rfl

/-! ### withInput -/

@[simp] theorem State.withInput_cfg : (s.withInput).cfg = s.cfg := rfl
@[simp] theorem State.withInput_rom : (s.withInput).rom = s.rom := rfl
@[simp] theorem State.withInput_pc : (s.withInput).pc = s.pc := rfl
@[simp] theorem State.withInput_stk : (s.withInput).stk = s.stk := rfl
@[simp] theorem State.withInput_stkv : (s.withInput).stkv = s.stkv := rfl
@[simp] theorem State.withInput_acc : (s.withInput).acc = s.acc := rfl
@[simp] theorem State.withInput_mp : (s.withInput).mp = s.mp := rfl
@[simp] theorem State.withInput_tblp : (s.withInput).tblp = s.tblp := rfl
@[simp] theorem State.withInput_tblh : (s.withInput).tblh = s.tblh := rfl
@[simp] theorem State.withInput_flagC : (s.withInput).flagC = s.flagC := rfl
@[simp] theorem State.withInput_flagAC : (s.withInput).flagAC = s.flagAC := rfl
@[simp] theorem State.withInput_flagZ : (s.withInput).flagZ = s.flagZ := rfl
@[simp] theorem State.withInput_flagOV : (s.withInput).flagOV = s.flagOV := rfl
@[simp] theorem State.withInput_flagPD : (s.withInput).flagPD = s.flagPD := rfl
@[simp] theorem State.withInput_flagTO : (s.withInput).flagTO = s.flagTO := rfl
@[simp] theorem State.withInput_paL : (s.withInput).paL = s.paL := rfl
@[simp] theorem State.withInput_pbL : (s.withInput).pbL = s.pbL := rfl
@[simp] theorem State.withInput_pc0L : (s.withInput).pc0L = s.pc0L := rfl
@[simp] theorem State.withInput_ram : (s.withInput).ram = s.ram := rfl
@[simp] theorem State.withInput_wdt : (s.withInput).wdt = s.wdt := rfl
@[simp] theorem State.withInput_w1 : (s.withInput).w1 = s.w1 := rfl
@[simp] theorem State.withInput_w2 : (s.withInput).w2 = s.w2 := rfl
@[simp] theorem State.withInput_halted : (s.withInput).halted = s.halted := rfl
@[simp] theorem State.withInput_extPA : (s.withInput).extPA = s.currentInput.extPA := rfl
@[simp] theorem State.withInput_extPB : (s.withInput).extPB = s.currentInput.extPB := rfl
@[simp] theorem State.withInput_inputs : (s.withInput).inputs = s.inputs.tail := rfl

/-! ### placeWord -/

@[simp] theorem State.placeWord_cfg (w : Word14) : (s.placeWord w).cfg = s.cfg := rfl
@[simp] theorem State.placeWord_rom (w : Word14) : (s.placeWord w).rom = Memory.write s.rom s.pc.toNat w := rfl
@[simp] theorem State.placeWord_pc (w : Word14) : (s.placeWord w).pc = s.pc := rfl
@[simp] theorem State.placeWord_stk (w : Word14) : (s.placeWord w).stk = s.stk := rfl
@[simp] theorem State.placeWord_stkv (w : Word14) : (s.placeWord w).stkv = s.stkv := rfl
@[simp] theorem State.placeWord_acc (w : Word14) : (s.placeWord w).acc = s.acc := rfl
@[simp] theorem State.placeWord_mp (w : Word14) : (s.placeWord w).mp = s.mp := rfl
@[simp] theorem State.placeWord_tblp (w : Word14) : (s.placeWord w).tblp = s.tblp := rfl
@[simp] theorem State.placeWord_tblh (w : Word14) : (s.placeWord w).tblh = s.tblh := rfl
@[simp] theorem State.placeWord_flagC (w : Word14) : (s.placeWord w).flagC = s.flagC := rfl
@[simp] theorem State.placeWord_flagAC (w : Word14) : (s.placeWord w).flagAC = s.flagAC := rfl
@[simp] theorem State.placeWord_flagZ (w : Word14) : (s.placeWord w).flagZ = s.flagZ := rfl
@[simp] theorem State.placeWord_flagOV (w : Word14) : (s.placeWord w).flagOV = s.flagOV := rfl
@[simp] theorem State.placeWord_flagPD (w : Word14) : (s.placeWord w).flagPD = s.flagPD := rfl
@[simp] theorem State.placeWord_flagTO (w : Word14) : (s.placeWord w).flagTO = s.flagTO := rfl
@[simp] theorem State.placeWord_paL (w : Word14) : (s.placeWord w).paL = s.paL := rfl
@[simp] theorem State.placeWord_pbL (w : Word14) : (s.placeWord w).pbL = s.pbL := rfl
@[simp] theorem State.placeWord_pc0L (w : Word14) : (s.placeWord w).pc0L = s.pc0L := rfl
@[simp] theorem State.placeWord_ram (w : Word14) : (s.placeWord w).ram = s.ram := rfl
@[simp] theorem State.placeWord_wdt (w : Word14) : (s.placeWord w).wdt = s.wdt := rfl
@[simp] theorem State.placeWord_w1 (w : Word14) : (s.placeWord w).w1 = s.w1 := rfl
@[simp] theorem State.placeWord_w2 (w : Word14) : (s.placeWord w).w2 = s.w2 := rfl
@[simp] theorem State.placeWord_halted (w : Word14) : (s.placeWord w).halted = false := rfl
@[simp] theorem State.placeWord_extPA (w : Word14) : (s.placeWord w).extPA = s.extPA := rfl
@[simp] theorem State.placeWord_extPB (w : Word14) : (s.placeWord w).extPB = s.extPB := rfl
@[simp] theorem State.placeWord_inputs (w : Word14) : (s.placeWord w).inputs = s.inputs := rfl

end Sys2Proof.Machine
end

