-- ==== Sys2Proof/Laws/Operands.lean ====
section
/-! SUPPORT. The shared operations: which address names which location, what `dwrite` leaves alone, and for each instruction
shape one lemma that says when it answers a next state and which. -/

namespace Sys2Proof.Machine

/-! ## The address map -/

theorem locOf_eq_noCell (a : DAddr) : locOf a = .noCell ↔ a = 0x00#6 := by revert a; decide

theorem locOf_eq_mp (a : DAddr) : locOf a = .mp ↔ a = 0x01#6 := by revert a; decide

theorem locOf_eq_acc (a : DAddr) : locOf a = .acc ↔ a = 0x05#6 := by revert a; decide

theorem locOf_eq_pcl (a : DAddr) : locOf a = .pcl ↔ a = 0x06#6 := by revert a; decide

theorem locOf_eq_tblp (a : DAddr) : locOf a = .tblp ↔ a = 0x07#6 := by revert a; decide

theorem locOf_eq_tblh (a : DAddr) : locOf a = .tblh ↔ a = 0x08#6 := by revert a; decide

theorem locOf_eq_status (a : DAddr) : locOf a = .status ↔ a = 0x0A#6 := by revert a; decide

theorem locOf_eq_portA (a : DAddr) : locOf a = .portA ↔ a = 0x12#6 := by revert a; decide

theorem locOf_eq_portB (a : DAddr) : locOf a = .portB ↔ a = 0x14#6 := by revert a; decide

theorem locOf_eq_portC (a : DAddr) : locOf a = .portC ↔ a = 0x16#6 := by revert a; decide

theorem locOf_eq_ram (a : DAddr) : locOf a = .ram ↔ 0x20 ≤ a.toNat := by revert a; decide

/-! ## What `dwrite` leaves alone -/

@[simp] theorem dwrite_cfg (s : State) (a : DAddr) (v : Byte) : (dwrite s a v).cfg = s.cfg := by
  unfold dwrite; split <;> rfl

@[simp] theorem dwrite_rom (s : State) (a : DAddr) (v : Byte) : (dwrite s a v).rom = s.rom := by
  unfold dwrite; split <;> rfl

@[simp] theorem dwrite_stk (s : State) (a : DAddr) (v : Byte) : (dwrite s a v).stk = s.stk := by
  unfold dwrite; split <;> rfl

@[simp] theorem dwrite_stkv (s : State) (a : DAddr) (v : Byte) : (dwrite s a v).stkv = s.stkv := by
  unfold dwrite; split <;> rfl

@[simp] theorem dwrite_tblh (s : State) (a : DAddr) (v : Byte) : (dwrite s a v).tblh = s.tblh := by
  unfold dwrite; split <;> rfl

@[simp] theorem dwrite_flagPD (s : State) (a : DAddr) (v : Byte) : (dwrite s a v).flagPD = s.flagPD := by
  unfold dwrite; split <;> rfl

@[simp] theorem dwrite_flagTO (s : State) (a : DAddr) (v : Byte) : (dwrite s a v).flagTO = s.flagTO := by
  unfold dwrite; split <;> rfl

@[simp] theorem dwrite_w1 (s : State) (a : DAddr) (v : Byte) : (dwrite s a v).w1 = s.w1 := by
  unfold dwrite; split <;> rfl

@[simp] theorem dwrite_w2 (s : State) (a : DAddr) (v : Byte) : (dwrite s a v).w2 = s.w2 := by
  unfold dwrite; split <;> rfl

@[simp] theorem dwrite_halted (s : State) (a : DAddr) (v : Byte) : (dwrite s a v).halted = s.halted := by
  unfold dwrite; split <;> rfl

@[simp] theorem dwrite_extPA (s : State) (a : DAddr) (v : Byte) : (dwrite s a v).extPA = s.extPA := by
  unfold dwrite; split <;> rfl

@[simp] theorem dwrite_extPB (s : State) (a : DAddr) (v : Byte) : (dwrite s a v).extPB = s.extPB := by
  unfold dwrite; split <;> rfl

@[simp] theorem dwrite_inputs (s : State) (a : DAddr) (v : Byte) : (dwrite s a v).inputs = s.inputs := by
  unfold dwrite; split <;> rfl

/-- The watchdog count after a write: one cycle more where the address is PCL. -/
theorem dwrite_wdt (s : State) (a : DAddr) (v : Byte) :
    (dwrite s a v).wdt = if a = 0x06#6 then (s.tick 1).wdt else s.wdt := by
  by_cases h : a = 0x06#6
  · subst h; rfl
  · have hl : locOf a ≠ .pcl := fun hl => h ((locOf_eq_pcl a).mp hl)
    rw [if_neg h]
    unfold dwrite
    split <;> first | rfl | contradiction

/-- PC after a write: PCL loaded where the address is PCL. -/
theorem dwrite_pc (s : State) (a : DAddr) (v : Byte) :
    (dwrite s a v).pc = if a = 0x06#6 then s.pc.extractLsb' 8 2 ++ v else s.pc := by
  by_cases h : a = 0x06#6
  · subst h; rfl
  · have hl : locOf a ≠ .pcl := fun hl => h ((locOf_eq_pcl a).mp hl)
    rw [if_neg h]
    unfold dwrite
    split <;> first | rfl | contradiction

/-- RAM after a write: the cell written where the address is one of RAM. -/
theorem dwrite_ram (s : State) (a : DAddr) (v : Byte) :
    (dwrite s a v).ram = if 0x20 ≤ a.toNat then Memory.write s.ram a.toNat v else s.ram := by
  by_cases h : 0x20 ≤ a.toNat
  · simp [dwrite, (locOf_eq_ram a).mpr h, h]
  · have hl : locOf a ≠ .ram := fun hl => h ((locOf_eq_ram a).mp hl)
    rw [if_neg h]
    unfold dwrite
    split <;> first | rfl | contradiction

/-! ## The shapes of instruction -/

theorem next_inj {t u : State} : (Host.Outcome.next u : Result) = .next t ↔ t = u := by
  constructor
  · rintro ⟨⟩; rfl
  · rintro rfl; rfl

theorem refused_inj {r x : Refusal} : (Host.Outcome.refused x : Result) = .refused r ↔ r = x := by
  constructor
  · rintro ⟨⟩; rfl
  · rintro rfl; rfl

theorem withOperand_next {m : MField} {s t : State} {k : DAddr → Result} :
    withOperand m s k = .next t ↔ m.toNat ≤ 0x3F ∧ k (effectiveAddress m s) = .next t := by
  unfold withOperand
  split <;> simp_all

theorem withOperand_refused {m : MField} {s : State} {k : DAddr → Result} {r : Refusal} :
    withOperand m s k = .refused r ↔
      (0x3F < m.toNat ∧ r = .dataAddressAbove3FH) ∨ (m.toNat ≤ 0x3F ∧ k (effectiveAddress m s) = .refused r) := by
  unfold withOperand
  split
  · rename_i h; simp [h, Nat.not_lt.mpr h]
  · rename_i h; simp [h, Nat.not_le.mp h, eq_comm]

theorem loadOp_next {m : MField} {s t : State} {op : Byte → AluResult} :
    loadOp m s op = .next t ↔
      m.toNat ≤ 0x3F ∧
      t = ((s.withFlags (op (dread s (effectiveAddress m s))).flags).withAcc
        (op (dread s (effectiveAddress m s))).value).tick 1 := by
  rw [loadOp, withOperand_next, next_inj]

theorem immediateOp_next {s t : State} {r : AluResult} :
    immediateOp s r = .next t ↔ t = ((s.withFlags r.flags).withAcc r.value).tick 1 := by
  rw [immediateOp, next_inj]

theorem storeResult_next {s t : State} {a : DAddr} {r : AluResult} :
    storeResult s a r = .next t ↔
      ¬(r.flags.any = true ∧ a = 0x0A#6) ∧ t = (dwrite (s.withFlags r.flags) a r.value).tick 1 := by
  unfold storeResult
  split
  · simp_all
  · rw [next_inj]; simp_all

theorem storeResult_refused {s : State} {a : DAddr} {r : AluResult} {x : Refusal} :
    storeResult s a r = .refused x ↔ (r.flags.any = true ∧ a = 0x0A#6) ∧ x = .flagWriteToStatus := by
  unfold storeResult
  split
  · rw [refused_inj]; simp_all
  · simp_all

theorem modifyOp_next {m : MField} {s t : State} {op : Byte → AluResult} :
    modifyOp m s op = .next t ↔
      m.toNat ≤ 0x3F ∧
      storeResult s (effectiveAddress m s) (op (dread s (effectiveAddress m s))) = .next t := by
  rw [modifyOp, withOperand_next]

theorem storeOp_next {m : MField} {s t : State} {r : AluResult} :
    storeOp m s r = .next t ↔ m.toNat ≤ 0x3F ∧ storeResult s (effectiveAddress m s) r = .next t := by
  rw [storeOp, withOperand_next]

theorem testSkip_next {m : MField} {s t : State} {p : Byte → Bool} :
    testSkip m s p = .next t ↔
      m.toNat ≤ 0x3F ∧ t = (s.skipIf (p (dread s (effectiveAddress m s)))).tick 1 := by
  rw [testSkip, withOperand_next, next_inj]

theorem loadSkip_next {m : MField} {s t : State} {f : Byte → Byte} :
    loadSkip m s f = .next t ↔
      m.toNat ≤ 0x3F ∧
      t = ((s.withAcc (f (dread s (effectiveAddress m s)))).skipIf
        (decide (f (dread s (effectiveAddress m s)) = 0#8))).tick 1 := by
  rw [loadSkip, withOperand_next, next_inj]

theorem modifySkip_next {m : MField} {s t : State} {f : Byte → Byte} :
    modifySkip m s f = .next t ↔
      m.toNat ≤ 0x3F ∧
      ¬(effectiveAddress m s = 0x06#6 ∧ f (dread s (effectiveAddress m s)) = 0#8) ∧
      t = ((dwrite s (effectiveAddress m s) (f (dread s (effectiveAddress m s)))).skipIf
        (decide (f (dread s (effectiveAddress m s)) = 0#8))).tick 1 := by
  unfold modifySkip
  rw [withOperand_next]
  by_cases h : effectiveAddress m s = 0x06#6 ∧ f (dread s (effectiveAddress m s)) = 0#8
  · rw [if_pos (by simpa using h)]
    constructor
    · rintro ⟨-, ⟨⟩⟩
    · rintro ⟨-, hn, -⟩
      exact absurd h hn
  · rw [if_neg (by simpa using h), next_inj]
    exact ⟨fun k => ⟨k.1, h, k.2⟩, fun k => ⟨k.1, k.2.2⟩⟩

theorem tableRead_next {m : MField} {s t : State} {x : PAddr} :
    tableRead m s x = .next t ↔
      m.toNat ≤ 0x3F ∧
      t = (dwrite (s.withTblh ((s.pread x).extractLsb' 8 6)) (effectiveAddress m s)
        ((s.pread x).extractLsb' 0 8)).tick 2 := by
  rw [tableRead, withOperand_next, next_inj]

theorem loadOp_refused {m : MField} {s : State} {op : Byte → AluResult} {r : Refusal} :
    loadOp m s op = .refused r ↔ 0x3F < m.toNat ∧ r = .dataAddressAbove3FH := by
  simp [loadOp, withOperand_refused]

theorem modifyOp_refused {m : MField} {s : State} {op : Byte → AluResult} {r : Refusal} :
    modifyOp m s op = .refused r ↔
      (0x3F < m.toNat ∧ r = .dataAddressAbove3FH) ∨
      (m.toNat ≤ 0x3F ∧ ((op (dread s (effectiveAddress m s))).flags.any = true ∧ effectiveAddress m s = 0x0A#6) ∧
        r = .flagWriteToStatus) := by
  rw [modifyOp, withOperand_refused, storeResult_refused]

theorem storeOp_refused {m : MField} {s : State} {x : AluResult} {r : Refusal} :
    storeOp m s x = .refused r ↔
      (0x3F < m.toNat ∧ r = .dataAddressAbove3FH) ∨
      (m.toNat ≤ 0x3F ∧ (x.flags.any = true ∧ effectiveAddress m s = 0x0A#6) ∧ r = .flagWriteToStatus) := by
  rw [storeOp, withOperand_refused, storeResult_refused]

theorem testSkip_refused {m : MField} {s : State} {p : Byte → Bool} {r : Refusal} :
    testSkip m s p = .refused r ↔ 0x3F < m.toNat ∧ r = .dataAddressAbove3FH := by
  simp [testSkip, withOperand_refused]

theorem loadSkip_refused {m : MField} {s : State} {f : Byte → Byte} {r : Refusal} :
    loadSkip m s f = .refused r ↔ 0x3F < m.toNat ∧ r = .dataAddressAbove3FH := by
  simp [loadSkip, withOperand_refused]

theorem modifySkip_refused {m : MField} {s : State} {f : Byte → Byte} {r : Refusal} :
    modifySkip m s f = .refused r ↔
      (0x3F < m.toNat ∧ r = .dataAddressAbove3FH) ∨
      (m.toNat ≤ 0x3F ∧ (effectiveAddress m s = 0x06#6 ∧ f (dread s (effectiveAddress m s)) = 0#8) ∧
        r = .skipWithPclLoad) := by
  rw [modifySkip, withOperand_refused]
  by_cases h : effectiveAddress m s = 0x06#6 ∧ f (dread s (effectiveAddress m s)) = 0#8
  · rw [if_pos (by simpa using h), refused_inj]; tauto
  · rw [if_neg (by simpa using h)]; simp only [h, false_and, and_false, reduceCtorEq]

theorem tableRead_refused {m : MField} {s : State} {x : PAddr} {r : Refusal} :
    tableRead m s x = .refused r ↔ 0x3F < m.toNat ∧ r = .dataAddressAbove3FH := by
  simp [tableRead, withOperand_refused]

theorem withTarget_next {addr : AddrField} {t : State} {k : PAddr → Result} :
    withTarget addr k = .next t ↔ addr.toNat ≤ 0x3FF ∧ k (addr.extractLsb' 0 10) = .next t := by
  unfold withTarget
  split <;> simp_all

theorem withReturn_next {s t : State} {k : State → Result} :
    withReturn s k = .next t ↔ s.stkv = true ∧ k s.pop = .next t := by
  unfold withReturn
  split <;> simp_all

/-- A skip changes PC and the watchdog count only. -/
theorem skipIf_eq (s : State) (b : Bool) :
    s.skipIf b =
      { s with
        pc := if b then s.pc + 1#10 else s.pc
        wdt := if b && s.cfg.wdtEn then s.wdt + 1 else s.wdt } := by
  cases b <;> cases h : s.cfg.wdtEn <;> simp [State.skipIf, State.skip, State.advance, State.tick, h]

/-! ## The instruction boundary -/

/-- Everything a boundary can do, in the order of R223. -/
theorem boundary_cases (s : State) :
    (∃ u, s.currentInput.event = some (.powerOn u) ∧ s.boundary = s.withInput.takeReset (.powerOn u)) ∨
    (s.currentInput.event = some .resLow ∧
      s.boundary = s.withInput.takeReset (if s.halted then .resHalt else .resNormal)) ∨
    (s.currentInput.event = none ∧ s.watchdogExpired = true ∧ s.boundary = s.withInput.takeReset .wdt) ∨
    (s.currentInput.event = none ∧ s.watchdogExpired = false ∧ s.halted = true ∧
      s.wakeEdge s.currentInput.extPB = true ∧ s.boundary = s.withInput.wake) ∨
    (s.currentInput.event = none ∧ s.watchdogExpired = false ∧
      (s.halted && s.wakeEdge s.currentInput.extPB) = false ∧ s.boundary = s.withInput) := by
  unfold State.boundary
  split
  · exact .inl ⟨_, ‹_›, rfl⟩
  · exact .inr (.inl ⟨‹_›, rfl⟩)
  · split
    · exact .inr (.inr (.inl ⟨‹_›, ‹_›, rfl⟩))
    · split
      · simp_all
      · simp_all

end Sys2Proof.Machine
end

