-- ==== Sys2Proof/Laws/PerInstr.lean ====
section
/-! SUPPORT. Statements about every instruction, one lemma per constructor. -/

namespace Sys2Proof

/-- The bits of a word that the opcode table fixes for the instruction's row, and their value (`30_encoding.md` rule R95). -/
def tableRow : Instr → Word14 × Word14
  | .nop => (0x3FFF#14, 0x0000#14)
  | .clrWdt => (0x3FFF#14, 0x0001#14)
  | .clrWdt1 => (0x3FFF#14, 0x0001#14)
  | .halt => (0x3FFF#14, 0x0002#14)
  | .ret => (0x3FFF#14, 0x0003#14)
  | .reti => (0x3FFF#14, 0x0004#14)
  | .clrWdt2 => (0x3FFF#14, 0x0005#14)
  | .movMemA _ => (0x3F80#14, 0x0080#14)
  | .cpla _ => (0x3F80#14, 0x0100#14)
  | .cpl _ => (0x3F80#14, 0x0180#14)
  | .subAM _ => (0x3F80#14, 0x0200#14)
  | .subm _ => (0x3F80#14, 0x0280#14)
  | .addAM _ => (0x3F80#14, 0x0300#14)
  | .addm _ => (0x3F80#14, 0x0380#14)
  | .xorAM _ => (0x3F80#14, 0x0400#14)
  | .xorm _ => (0x3F80#14, 0x0480#14)
  | .orAM _ => (0x3F80#14, 0x0500#14)
  | .orm _ => (0x3F80#14, 0x0580#14)
  | .andAM _ => (0x3F80#14, 0x0600#14)
  | .andm _ => (0x3F80#14, 0x0680#14)
  | .movAM _ => (0x3F80#14, 0x0700#14)
  | .retAX _ => (0x3F00#14, 0x0900#14)
  | .subAX _ => (0x3F00#14, 0x0A00#14)
  | .addAX _ => (0x3F00#14, 0x0B00#14)
  | .xorAX _ => (0x3F00#14, 0x0C00#14)
  | .orAX _ => (0x3F00#14, 0x0D00#14)
  | .andAX _ => (0x3F00#14, 0x0E00#14)
  | .movAX _ => (0x3F00#14, 0x0F00#14)
  | .sza _ => (0x3F80#14, 0x1000#14)
  | .sz _ => (0x3F80#14, 0x1080#14)
  | .swapa _ => (0x3F80#14, 0x1100#14)
  | .swap _ => (0x3F80#14, 0x1180#14)
  | .sbcAM _ => (0x3F80#14, 0x1200#14)
  | .sbcm _ => (0x3F80#14, 0x1280#14)
  | .adcAM _ => (0x3F80#14, 0x1300#14)
  | .adcm _ => (0x3F80#14, 0x1380#14)
  | .inca _ => (0x3F80#14, 0x1400#14)
  | .inc _ => (0x3F80#14, 0x1480#14)
  | .deca _ => (0x3F80#14, 0x1500#14)
  | .dec _ => (0x3F80#14, 0x1580#14)
  | .siza _ => (0x3F80#14, 0x1600#14)
  | .siz _ => (0x3F80#14, 0x1680#14)
  | .sdza _ => (0x3F80#14, 0x1700#14)
  | .sdz _ => (0x3F80#14, 0x1780#14)
  | .rla _ => (0x3F80#14, 0x1800#14)
  | .rl _ => (0x3F80#14, 0x1880#14)
  | .rra _ => (0x3F80#14, 0x1900#14)
  | .rr _ => (0x3F80#14, 0x1980#14)
  | .rlca _ => (0x3F80#14, 0x1A00#14)
  | .rlc _ => (0x3F80#14, 0x1A80#14)
  | .rrca _ => (0x3F80#14, 0x1B00#14)
  | .rrc _ => (0x3F80#14, 0x1B80#14)
  | .tabrdc _ => (0x3F80#14, 0x1D00#14)
  | .tabrdl _ => (0x3F80#14, 0x1D80#14)
  | .daa _ => (0x3F80#14, 0x1E80#14)
  | .clrM _ => (0x3F80#14, 0x1F00#14)
  | .setM _ => (0x3F80#14, 0x1F80#14)
  | .call _ => (0x3800#14, 0x2000#14)
  | .jmp _ => (0x3800#14, 0x2800#14)
  | .setBit _ _ => (0x3C00#14, 0x3000#14)
  | .clrBit _ _ => (0x3C00#14, 0x3400#14)
  | .snzBit _ _ => (0x3C00#14, 0x3800#14)
  | .szBit _ _ => (0x3C00#14, 0x3C00#14)

/-- The encoded word carries the bits its row of the opcode table fixes. -/
def Laws.FixedBits.Statement (i : Instr) : Prop := encode i &&& (tableRow i).1 = (tableRow i).2

/-- Operand bits do not reach the fixed bits above them. -/
theorem fixedBits_append {n p : Nat} (k : BitVec n) (f : BitVec p) :
    (k ++ f) &&& (BitVec.allOnes n ++ 0#p) = k ++ 0#p := by
  ext j hj
  by_cases h : j < p <;> simp [BitVec.getElem_append, h]

theorem fixedBits_append_append {n q p : Nat} (k : BitVec n) (i : BitVec q) (f : BitVec p) :
    (k ++ i ++ f) &&& (BitVec.allOnes n ++ 0#q ++ 0#p) = k ++ 0#q ++ 0#p := by
  ext j hj
  by_cases h : j < p <;> by_cases h' : j - p < q <;> simp [BitVec.getElem_append, h, h']

theorem Laws.FixedBits.nop : Laws.FixedBits.Statement (.nop) :=
  rfl
theorem Laws.FixedBits.clrWdt : Laws.FixedBits.Statement (.clrWdt) :=
  rfl
theorem Laws.FixedBits.clrWdt1 : Laws.FixedBits.Statement (.clrWdt1) :=
  rfl
theorem Laws.FixedBits.halt : Laws.FixedBits.Statement (.halt) :=
  rfl
theorem Laws.FixedBits.ret : Laws.FixedBits.Statement (.ret) :=
  rfl
theorem Laws.FixedBits.reti : Laws.FixedBits.Statement (.reti) :=
  rfl
theorem Laws.FixedBits.clrWdt2 : Laws.FixedBits.Statement (.clrWdt2) :=
  rfl
theorem Laws.FixedBits.movMemA (m : MField) : Laws.FixedBits.Statement (.movMemA m) :=
  fixedBits_append 0b0000001#7 m
theorem Laws.FixedBits.cpla (m : MField) : Laws.FixedBits.Statement (.cpla m) :=
  fixedBits_append 0b0000010#7 m
theorem Laws.FixedBits.cpl (m : MField) : Laws.FixedBits.Statement (.cpl m) :=
  fixedBits_append 0b0000011#7 m
theorem Laws.FixedBits.subAM (m : MField) : Laws.FixedBits.Statement (.subAM m) :=
  fixedBits_append 0b0000100#7 m
theorem Laws.FixedBits.subm (m : MField) : Laws.FixedBits.Statement (.subm m) :=
  fixedBits_append 0b0000101#7 m
theorem Laws.FixedBits.addAM (m : MField) : Laws.FixedBits.Statement (.addAM m) :=
  fixedBits_append 0b0000110#7 m
theorem Laws.FixedBits.addm (m : MField) : Laws.FixedBits.Statement (.addm m) :=
  fixedBits_append 0b0000111#7 m
theorem Laws.FixedBits.xorAM (m : MField) : Laws.FixedBits.Statement (.xorAM m) :=
  fixedBits_append 0b0001000#7 m
theorem Laws.FixedBits.xorm (m : MField) : Laws.FixedBits.Statement (.xorm m) :=
  fixedBits_append 0b0001001#7 m
theorem Laws.FixedBits.orAM (m : MField) : Laws.FixedBits.Statement (.orAM m) :=
  fixedBits_append 0b0001010#7 m
theorem Laws.FixedBits.orm (m : MField) : Laws.FixedBits.Statement (.orm m) :=
  fixedBits_append 0b0001011#7 m
theorem Laws.FixedBits.andAM (m : MField) : Laws.FixedBits.Statement (.andAM m) :=
  fixedBits_append 0b0001100#7 m
theorem Laws.FixedBits.andm (m : MField) : Laws.FixedBits.Statement (.andm m) :=
  fixedBits_append 0b0001101#7 m
theorem Laws.FixedBits.movAM (m : MField) : Laws.FixedBits.Statement (.movAM m) :=
  fixedBits_append 0b0001110#7 m
theorem Laws.FixedBits.retAX (x : Byte) : Laws.FixedBits.Statement (.retAX x) :=
  fixedBits_append 0b001001#6 x
theorem Laws.FixedBits.subAX (x : Byte) : Laws.FixedBits.Statement (.subAX x) :=
  fixedBits_append 0b001010#6 x
theorem Laws.FixedBits.addAX (x : Byte) : Laws.FixedBits.Statement (.addAX x) :=
  fixedBits_append 0b001011#6 x
theorem Laws.FixedBits.xorAX (x : Byte) : Laws.FixedBits.Statement (.xorAX x) :=
  fixedBits_append 0b001100#6 x
theorem Laws.FixedBits.orAX (x : Byte) : Laws.FixedBits.Statement (.orAX x) :=
  fixedBits_append 0b001101#6 x
theorem Laws.FixedBits.andAX (x : Byte) : Laws.FixedBits.Statement (.andAX x) :=
  fixedBits_append 0b001110#6 x
theorem Laws.FixedBits.movAX (x : Byte) : Laws.FixedBits.Statement (.movAX x) :=
  fixedBits_append 0b001111#6 x
theorem Laws.FixedBits.sza (m : MField) : Laws.FixedBits.Statement (.sza m) :=
  fixedBits_append 0b0100000#7 m
theorem Laws.FixedBits.sz (m : MField) : Laws.FixedBits.Statement (.sz m) :=
  fixedBits_append 0b0100001#7 m
theorem Laws.FixedBits.swapa (m : MField) : Laws.FixedBits.Statement (.swapa m) :=
  fixedBits_append 0b0100010#7 m
theorem Laws.FixedBits.swap (m : MField) : Laws.FixedBits.Statement (.swap m) :=
  fixedBits_append 0b0100011#7 m
theorem Laws.FixedBits.sbcAM (m : MField) : Laws.FixedBits.Statement (.sbcAM m) :=
  fixedBits_append 0b0100100#7 m
theorem Laws.FixedBits.sbcm (m : MField) : Laws.FixedBits.Statement (.sbcm m) :=
  fixedBits_append 0b0100101#7 m
theorem Laws.FixedBits.adcAM (m : MField) : Laws.FixedBits.Statement (.adcAM m) :=
  fixedBits_append 0b0100110#7 m
theorem Laws.FixedBits.adcm (m : MField) : Laws.FixedBits.Statement (.adcm m) :=
  fixedBits_append 0b0100111#7 m
theorem Laws.FixedBits.inca (m : MField) : Laws.FixedBits.Statement (.inca m) :=
  fixedBits_append 0b0101000#7 m
theorem Laws.FixedBits.inc (m : MField) : Laws.FixedBits.Statement (.inc m) :=
  fixedBits_append 0b0101001#7 m
theorem Laws.FixedBits.deca (m : MField) : Laws.FixedBits.Statement (.deca m) :=
  fixedBits_append 0b0101010#7 m
theorem Laws.FixedBits.dec (m : MField) : Laws.FixedBits.Statement (.dec m) :=
  fixedBits_append 0b0101011#7 m
theorem Laws.FixedBits.siza (m : MField) : Laws.FixedBits.Statement (.siza m) :=
  fixedBits_append 0b0101100#7 m
theorem Laws.FixedBits.siz (m : MField) : Laws.FixedBits.Statement (.siz m) :=
  fixedBits_append 0b0101101#7 m
theorem Laws.FixedBits.sdza (m : MField) : Laws.FixedBits.Statement (.sdza m) :=
  fixedBits_append 0b0101110#7 m
theorem Laws.FixedBits.sdz (m : MField) : Laws.FixedBits.Statement (.sdz m) :=
  fixedBits_append 0b0101111#7 m
theorem Laws.FixedBits.rla (m : MField) : Laws.FixedBits.Statement (.rla m) :=
  fixedBits_append 0b0110000#7 m
theorem Laws.FixedBits.rl (m : MField) : Laws.FixedBits.Statement (.rl m) :=
  fixedBits_append 0b0110001#7 m
theorem Laws.FixedBits.rra (m : MField) : Laws.FixedBits.Statement (.rra m) :=
  fixedBits_append 0b0110010#7 m
theorem Laws.FixedBits.rr (m : MField) : Laws.FixedBits.Statement (.rr m) :=
  fixedBits_append 0b0110011#7 m
theorem Laws.FixedBits.rlca (m : MField) : Laws.FixedBits.Statement (.rlca m) :=
  fixedBits_append 0b0110100#7 m
theorem Laws.FixedBits.rlc (m : MField) : Laws.FixedBits.Statement (.rlc m) :=
  fixedBits_append 0b0110101#7 m
theorem Laws.FixedBits.rrca (m : MField) : Laws.FixedBits.Statement (.rrca m) :=
  fixedBits_append 0b0110110#7 m
theorem Laws.FixedBits.rrc (m : MField) : Laws.FixedBits.Statement (.rrc m) :=
  fixedBits_append 0b0110111#7 m
theorem Laws.FixedBits.tabrdc (m : MField) : Laws.FixedBits.Statement (.tabrdc m) :=
  fixedBits_append 0b0111010#7 m
theorem Laws.FixedBits.tabrdl (m : MField) : Laws.FixedBits.Statement (.tabrdl m) :=
  fixedBits_append 0b0111011#7 m
theorem Laws.FixedBits.daa (m : MField) : Laws.FixedBits.Statement (.daa m) :=
  fixedBits_append 0b0111101#7 m
theorem Laws.FixedBits.clrM (m : MField) : Laws.FixedBits.Statement (.clrM m) :=
  fixedBits_append 0b0111110#7 m
theorem Laws.FixedBits.setM (m : MField) : Laws.FixedBits.Statement (.setM m) :=
  fixedBits_append 0b0111111#7 m
theorem Laws.FixedBits.call (addr : AddrField) : Laws.FixedBits.Statement (.call addr) :=
  fixedBits_append 0b100#3 addr
theorem Laws.FixedBits.jmp (addr : AddrField) : Laws.FixedBits.Statement (.jmp addr) :=
  fixedBits_append 0b101#3 addr
theorem Laws.FixedBits.setBit (m : MField) (i : BitVec 3) : Laws.FixedBits.Statement (.setBit m i) :=
  fixedBits_append_append 0b1100#4 i m
theorem Laws.FixedBits.clrBit (m : MField) (i : BitVec 3) : Laws.FixedBits.Statement (.clrBit m i) :=
  fixedBits_append_append 0b1101#4 i m
theorem Laws.FixedBits.snzBit (m : MField) (i : BitVec 3) : Laws.FixedBits.Statement (.snzBit m i) :=
  fixedBits_append_append 0b1110#4 i m
theorem Laws.FixedBits.szBit (m : MField) (i : BitVec 3) : Laws.FixedBits.Statement (.szBit m i) :=
  fixedBits_append_append 0b1111#4 i m

end Sys2Proof
end

