-- ==== Sys2Proof/Laws/Safety.lean ====
section
/-! SUPPORT. The two changes of a state that the statements make, other outside levels and another ENC: each field after
them. Every lemma is true by rfl. -/

namespace Sys2Proof.Machine

variable (s : State)

/-! ### withLevels -/

@[simp] theorem State.withLevels_cfg (pa pb : Byte) : (s.withLevels pa pb).cfg = s.cfg := rfl
@[simp] theorem State.withLevels_rom (pa pb : Byte) : (s.withLevels pa pb).rom = s.rom := rfl
@[simp] theorem State.withLevels_pc (pa pb : Byte) : (s.withLevels pa pb).pc = s.pc := rfl
@[simp] theorem State.withLevels_stk (pa pb : Byte) : (s.withLevels pa pb).stk = s.stk := rfl
@[simp] theorem State.withLevels_stkv (pa pb : Byte) : (s.withLevels pa pb).stkv = s.stkv := rfl
@[simp] theorem State.withLevels_acc (pa pb : Byte) : (s.withLevels pa pb).acc = s.acc := rfl
@[simp] theorem State.withLevels_mp (pa pb : Byte) : (s.withLevels pa pb).mp = s.mp := rfl
@[simp] theorem State.withLevels_tblp (pa pb : Byte) : (s.withLevels pa pb).tblp = s.tblp := rfl
@[simp] theorem State.withLevels_tblh (pa pb : Byte) : (s.withLevels pa pb).tblh = s.tblh := rfl
@[simp] theorem State.withLevels_flagC (pa pb : Byte) : (s.withLevels pa pb).flagC = s.flagC := rfl
@[simp] theorem State.withLevels_flagAC (pa pb : Byte) : (s.withLevels pa pb).flagAC = s.flagAC := rfl
@[simp] theorem State.withLevels_flagZ (pa pb : Byte) : (s.withLevels pa pb).flagZ = s.flagZ := rfl
@[simp] theorem State.withLevels_flagOV (pa pb : Byte) : (s.withLevels pa pb).flagOV = s.flagOV := rfl
@[simp] theorem State.withLevels_flagPD (pa pb : Byte) : (s.withLevels pa pb).flagPD = s.flagPD := rfl
@[simp] theorem State.withLevels_flagTO (pa pb : Byte) : (s.withLevels pa pb).flagTO = s.flagTO := rfl
@[simp] theorem State.withLevels_paL (pa pb : Byte) : (s.withLevels pa pb).paL = s.paL := rfl
@[simp] theorem State.withLevels_pbL (pa pb : Byte) : (s.withLevels pa pb).pbL = s.pbL := rfl
@[simp] theorem State.withLevels_pc0L (pa pb : Byte) : (s.withLevels pa pb).pc0L = s.pc0L := rfl
@[simp] theorem State.withLevels_ram (pa pb : Byte) : (s.withLevels pa pb).ram = s.ram := rfl
@[simp] theorem State.withLevels_wdt (pa pb : Byte) : (s.withLevels pa pb).wdt = s.wdt := rfl
@[simp] theorem State.withLevels_w1 (pa pb : Byte) : (s.withLevels pa pb).w1 = s.w1 := rfl
@[simp] theorem State.withLevels_w2 (pa pb : Byte) : (s.withLevels pa pb).w2 = s.w2 := rfl
@[simp] theorem State.withLevels_halted (pa pb : Byte) : (s.withLevels pa pb).halted = s.halted := rfl
@[simp] theorem State.withLevels_extPA (pa pb : Byte) : (s.withLevels pa pb).extPA = pa := rfl
@[simp] theorem State.withLevels_extPB (pa pb : Byte) : (s.withLevels pa pb).extPB = pb := rfl
@[simp] theorem State.withLevels_inputs (pa pb : Byte) : (s.withLevels pa pb).inputs = s.inputs := rfl

/-! ### withEnc: the other options are as they were -/

@[simp] theorem State.withEnc_rom (e : Enc) : (s.withEnc e).rom = s.rom := rfl
@[simp] theorem State.withEnc_pc (e : Enc) : (s.withEnc e).pc = s.pc := rfl
@[simp] theorem State.withEnc_stk (e : Enc) : (s.withEnc e).stk = s.stk := rfl
@[simp] theorem State.withEnc_stkv (e : Enc) : (s.withEnc e).stkv = s.stkv := rfl
@[simp] theorem State.withEnc_acc (e : Enc) : (s.withEnc e).acc = s.acc := rfl
@[simp] theorem State.withEnc_mp (e : Enc) : (s.withEnc e).mp = s.mp := rfl
@[simp] theorem State.withEnc_tblp (e : Enc) : (s.withEnc e).tblp = s.tblp := rfl
@[simp] theorem State.withEnc_tblh (e : Enc) : (s.withEnc e).tblh = s.tblh := rfl
@[simp] theorem State.withEnc_flagC (e : Enc) : (s.withEnc e).flagC = s.flagC := rfl
@[simp] theorem State.withEnc_flagAC (e : Enc) : (s.withEnc e).flagAC = s.flagAC := rfl
@[simp] theorem State.withEnc_flagZ (e : Enc) : (s.withEnc e).flagZ = s.flagZ := rfl
@[simp] theorem State.withEnc_flagOV (e : Enc) : (s.withEnc e).flagOV = s.flagOV := rfl
@[simp] theorem State.withEnc_flagPD (e : Enc) : (s.withEnc e).flagPD = s.flagPD := rfl
@[simp] theorem State.withEnc_flagTO (e : Enc) : (s.withEnc e).flagTO = s.flagTO := rfl
@[simp] theorem State.withEnc_paL (e : Enc) : (s.withEnc e).paL = s.paL := rfl
@[simp] theorem State.withEnc_pbL (e : Enc) : (s.withEnc e).pbL = s.pbL := rfl
@[simp] theorem State.withEnc_pc0L (e : Enc) : (s.withEnc e).pc0L = s.pc0L := rfl
@[simp] theorem State.withEnc_ram (e : Enc) : (s.withEnc e).ram = s.ram := rfl
@[simp] theorem State.withEnc_wdt (e : Enc) : (s.withEnc e).wdt = s.wdt := rfl
@[simp] theorem State.withEnc_w1 (e : Enc) : (s.withEnc e).w1 = s.w1 := rfl
@[simp] theorem State.withEnc_w2 (e : Enc) : (s.withEnc e).w2 = s.w2 := rfl
@[simp] theorem State.withEnc_halted (e : Enc) : (s.withEnc e).halted = s.halted := rfl
@[simp] theorem State.withEnc_extPA (e : Enc) : (s.withEnc e).extPA = s.extPA := rfl
@[simp] theorem State.withEnc_extPB (e : Enc) : (s.withEnc e).extPB = s.extPB := rfl
@[simp] theorem State.withEnc_inputs (e : Enc) : (s.withEnc e).inputs = s.inputs := rfl
@[simp] theorem State.withEnc_cfg_wdtN (e : Enc) : (s.withEnc e).cfg.wdtN = s.cfg.wdtN := rfl
@[simp] theorem State.withEnc_cfg_wdtEn (e : Enc) : (s.withEnc e).cfg.wdtEn = s.cfg.wdtEn := rfl
@[simp] theorem State.withEnc_cfg_clrWdtTimes (e : Enc) : (s.withEnc e).cfg.clrWdtTimes = s.cfg.clrWdtTimes := rfl
@[simp] theorem State.withEnc_cfg_wake (e : Enc) : (s.withEnc e).cfg.wake = s.cfg.wake := rfl
@[simp] theorem State.withEnc_cfg_pc0Mode (e : Enc) : (s.withEnc e).cfg.pc0Mode = s.cfg.pc0Mode := rfl
@[simp] theorem State.withEnc_cfg_carM (e : Enc) : (s.withEnc e).cfg.carM = s.cfg.carM := rfl
@[simp] theorem State.withEnc_cfg_carN (e : Enc) : (s.withEnc e).cfg.carN = s.cfg.carN := rfl
@[simp] theorem State.withEnc_cfg_carDuty (e : Enc) : (s.withEnc e).cfg.carDuty = s.cfg.carDuty := rfl
@[simp] theorem State.withEnc_cfg_osc (e : Enc) : (s.withEnc e).cfg.osc = s.cfg.osc := rfl
@[simp] theorem State.withEnc_cfg_ovSymmetric (e : Enc) : (s.withEnc e).cfg.ovSymmetric = s.cfg.ovSymmetric := rfl
@[simp] theorem State.withEnc_cfg_portLowWins (e : Enc) : (s.withEnc e).cfg.portLowWins = s.cfg.portLowWins := rfl
@[simp] theorem State.withEnc_cfg_enc (e : Enc) : (s.withEnc e).cfg.enc = e := rfl

end Sys2Proof.Machine
end

