-- ==== Sys2Proof/Laws/Step.lean ====
section
/-! SUPPORT. The step: when it answers a next state, and which. -/

namespace Sys2Proof.Machine

@[simp] theorem mapNext_refused (f : State → State) (r : Refusal) : mapNext f (.refused r) = .refused r := rfl

/-- A next state of a mapped result is the image of a next state of the result. -/
theorem mapNext_next {f : State → State} {r : Result} {t : State} : mapNext f r = .next t ↔ ∃ u, r = .next u ∧ t = f u := by
  cases r <;> simp [mapNext, eq_comm]

/-- Everything a step that answers a next state can be: the boundary of a halted machine, or an instruction and then the
boundary. -/
theorem step_next {s t : State} :
    step s = .next t ↔
      (s.halted = true ∧ t = s.boundary) ∨
      (s.halted = false ∧ ∃ i u, s.fetch = .ok i ∧ exec i s.advance = .next u ∧ t = u.boundary) := by
  unfold step
  cases h : s.halted
  · cases hf : s.fetch with
    | ok i => simp [mapNext_next]
    | error e => simp
  · simp [eq_comm]

end Sys2Proof.Machine
end

