-- ==== Sys2Proof/Tests/Slice0.lean ====
section
/-! SUPPORT. The model's own tests. Expected values are those of `spec/95_test_vectors.md` (part A: the source's tables; part B:
vectors derived by hand from the rules), named in each docstring, and the encodings of `30_encoding.md` rule R95. The
theorems `witness_<Name>` show states and operands that meet the hypotheses of the statement of that name. -/

namespace Sys2Proof.Tests

open Sys2Proof.Machine

/-! ## Helpers -/

/-- The base state of `95_test_vectors.md` part B: the instruction at 010H, MP = 20H. -/
def base : State := { State.reset with pc := 0x010#10, mp := 0x20#6 }

/-- The watchdog enabled, cleared by CLR WDT. -/
def wdtOne : Cfg := { Cfg.standard with wdtEn := true }

/-- The watchdog enabled, cleared by the pair CLR WDT1 and CLR WDT2. -/
def wdtTwo : Cfg := { Cfg.standard with wdtEn := true, clrWdtTimes := .two }

/-- A chip with an ENC of its own: 0000H is HALT, 0001H and 0002H are NOP, 1005H is JMP 005H; the last two rows break R92 and
repeat a word. -/
def otherEnc : Cfg :=
  { Cfg.standard with
    enc := .listed [(0x0000#14, .halt), (0x0001#14, .nop), (0x0002#14, .nop), (0x1005#14, .jmp 0x005#11),
      (0x1006#14, .jmp 0x005#11), (0x0000#14, .ret)] }

/-- A halted machine whose PB lines all wake it. -/
def asleep : State :=
  { base with pc := 0x00B#10, flagPD := true, halted := true, cfg := { Cfg.standard with wake := 0xFF#8 } }

/-- One step of the machine on `word`, placed where it fetches, and a view of the next state. -/
def after {α : Type} (s : State) (word : Word14) (f : State → α) : Option α :=
  match step (s.withFetchWord 14 word.toNat) with
  | .next t => some (f t)
  | .fault _ => none
  | .refused _ => none

/-- One step of the machine as it stands. -/
def afterStep {α : Type} (s : State) (f : State → α) : Option α :=
  match step s with
  | .next t => some (f t)
  | .fault _ => none
  | .refused _ => none

/-- The refusal of one step on `word`. -/
def refusal (s : State) (word : Word14) : Option Refusal :=
  match step (s.withFetchWord 14 word.toNat) with
  | .next _ => none
  | .fault _ => none
  | .refused r => some r

/-- The decoder's answer, for comparison. -/
def decoded (times : ClrWdtTimes) (w : Word14) : Option Instr :=
  match decode times w with
  | .ok i => some i
  | .error _ => none

/-! ## Well-formedness: each check refuses an ill-formed term and accepts the largest well-formed one -/

theorem test_wf_refuses_data_address :
    (
    [.movMemA 0x40, .cpla 0x40, .cpl 0x40, .subAM 0x40, .subm 0x40, .addAM 0x40, .addm 0x40, .xorAM 0x40, .xorm 0x40,
      .orAM 0x40, .orm 0x40, .andAM 0x40, .andm 0x40, .movAM 0x40, .sza 0x40, .sz 0x40, .swapa 0x40, .swap 0x40,
      .sbcAM 0x40, .sbcm 0x40, .adcAM 0x40, .adcm 0x40, .inca 0x40, .inc 0x40, .deca 0x40, .dec 0x40, .siza 0x40,
      .siz 0x40, .sdza 0x40, .sdz 0x40, .rla 0x40, .rl 0x40, .rra 0x40, .rr 0x40, .rlca 0x40, .rlc 0x40, .rrca 0x40,
      .rrc 0x40, .tabrdc 0x40, .tabrdl 0x40, .daa 0x40, .clrM 0x40, .setM 0x40, .setBit 0x40 0, .clrBit 0x40 0,
      .snzBit 0x40 0, .szBit 0x40 0] : List Instr).all (fun i => !i.wf) = true := by decide

theorem test_wf_accepts_data_address :
    (
    [.movMemA 0x3F, .cpla 0x3F, .cpl 0x3F, .subAM 0x3F, .subm 0x3F, .addAM 0x3F, .addm 0x3F, .xorAM 0x3F, .xorm 0x3F,
      .orAM 0x3F, .orm 0x3F, .andAM 0x3F, .andm 0x3F, .movAM 0x3F, .sza 0x3F, .sz 0x3F, .swapa 0x3F, .swap 0x3F,
      .sbcAM 0x3F, .sbcm 0x3F, .adcAM 0x3F, .adcm 0x3F, .inca 0x3F, .inc 0x3F, .deca 0x3F, .dec 0x3F, .siza 0x3F,
      .siz 0x3F, .sdza 0x3F, .sdz 0x3F, .rla 0x3F, .rl 0x3F, .rra 0x3F, .rr 0x3F, .rlca 0x3F, .rlc 0x3F, .rrca 0x3F,
      .rrc 0x3F, .tabrdc 0x3F, .tabrdl 0x3F, .daa 0x3F, .clrM 0x3F, .setM 0x3F, .setBit 0x3F 0, .clrBit 0x3F 0,
      .snzBit 0x3F 0, .szBit 0x3F 0] : List Instr).all (fun i => i.wf) = true := by decide

theorem test_wf_refuses_program_address : (Instr.jmp 0x400#11).wf = false ∧ (Instr.call 0x400#11).wf = false := by decide

theorem test_wf_accepts_program_address : (Instr.jmp 0x3FF#11).wf = true ∧ (Instr.call 0x3FF#11).wf = true := by decide

/-! ## Decoding: for every constructor a word written from the pattern of R95 -/

theorem test_decode_nop : decode .one 0b00000000000000#14 = .ok .nop := by decide
theorem test_decode_clrWdt : decode .one 0b00000000000001#14 = .ok .clrWdt := by decide
theorem test_decode_clrWdt1 : decode .two 0b00000000000001#14 = .ok .clrWdt1 := by decide
theorem test_decode_halt : decode .one 0b00000000000010#14 = .ok .halt := by decide
theorem test_decode_ret : decode .one 0b00000000000011#14 = .ok .ret := by decide
theorem test_decode_reti : decode .one 0b00000000000100#14 = .ok .reti := by decide
theorem test_decode_clrWdt2 : decode .one 0b00000000000101#14 = .ok .clrWdt2 := by decide
theorem test_decode_movMemA : decode .one 0b00000010100101#14 = .ok (.movMemA 0x25#7) := by decide
theorem test_decode_cpla : decode .one 0b00000100100101#14 = .ok (.cpla 0x25#7) := by decide
theorem test_decode_cpl : decode .one 0b00000110100101#14 = .ok (.cpl 0x25#7) := by decide
theorem test_decode_subAM : decode .one 0b00001000100101#14 = .ok (.subAM 0x25#7) := by decide
theorem test_decode_subm : decode .one 0b00001010100101#14 = .ok (.subm 0x25#7) := by decide
theorem test_decode_addAM : decode .one 0b00001100100101#14 = .ok (.addAM 0x25#7) := by decide
theorem test_decode_addm : decode .one 0b00001110100101#14 = .ok (.addm 0x25#7) := by decide
theorem test_decode_xorAM : decode .one 0b00010000100101#14 = .ok (.xorAM 0x25#7) := by decide
theorem test_decode_xorm : decode .one 0b00010010100101#14 = .ok (.xorm 0x25#7) := by decide
theorem test_decode_orAM : decode .one 0b00010100100101#14 = .ok (.orAM 0x25#7) := by decide
theorem test_decode_orm : decode .one 0b00010110100101#14 = .ok (.orm 0x25#7) := by decide
theorem test_decode_andAM : decode .one 0b00011000100101#14 = .ok (.andAM 0x25#7) := by decide
theorem test_decode_andm : decode .one 0b00011010100101#14 = .ok (.andm 0x25#7) := by decide
theorem test_decode_movAM : decode .one 0b00011100100101#14 = .ok (.movAM 0x25#7) := by decide
theorem test_decode_retAX : decode .one 0b00100110100101#14 = .ok (.retAX 0xA5#8) := by decide
theorem test_decode_subAX : decode .one 0b00101010100101#14 = .ok (.subAX 0xA5#8) := by decide
theorem test_decode_addAX : decode .one 0b00101110100101#14 = .ok (.addAX 0xA5#8) := by decide
theorem test_decode_xorAX : decode .one 0b00110010100101#14 = .ok (.xorAX 0xA5#8) := by decide
theorem test_decode_orAX : decode .one 0b00110110100101#14 = .ok (.orAX 0xA5#8) := by decide
theorem test_decode_andAX : decode .one 0b00111010100101#14 = .ok (.andAX 0xA5#8) := by decide
theorem test_decode_movAX : decode .one 0b00111110100101#14 = .ok (.movAX 0xA5#8) := by decide
theorem test_decode_sza : decode .one 0b01000000100101#14 = .ok (.sza 0x25#7) := by decide
theorem test_decode_sz : decode .one 0b01000010100101#14 = .ok (.sz 0x25#7) := by decide
theorem test_decode_swapa : decode .one 0b01000100100101#14 = .ok (.swapa 0x25#7) := by decide
theorem test_decode_swap : decode .one 0b01000110100101#14 = .ok (.swap 0x25#7) := by decide
theorem test_decode_sbcAM : decode .one 0b01001000100101#14 = .ok (.sbcAM 0x25#7) := by decide
theorem test_decode_sbcm : decode .one 0b01001010100101#14 = .ok (.sbcm 0x25#7) := by decide
theorem test_decode_adcAM : decode .one 0b01001100100101#14 = .ok (.adcAM 0x25#7) := by decide
theorem test_decode_adcm : decode .one 0b01001110100101#14 = .ok (.adcm 0x25#7) := by decide
theorem test_decode_inca : decode .one 0b01010000100101#14 = .ok (.inca 0x25#7) := by decide
theorem test_decode_inc : decode .one 0b01010010100101#14 = .ok (.inc 0x25#7) := by decide
theorem test_decode_deca : decode .one 0b01010100100101#14 = .ok (.deca 0x25#7) := by decide
theorem test_decode_dec : decode .one 0b01010110100101#14 = .ok (.dec 0x25#7) := by decide
theorem test_decode_siza : decode .one 0b01011000100101#14 = .ok (.siza 0x25#7) := by decide
theorem test_decode_siz : decode .one 0b01011010100101#14 = .ok (.siz 0x25#7) := by decide
theorem test_decode_sdza : decode .one 0b01011100100101#14 = .ok (.sdza 0x25#7) := by decide
theorem test_decode_sdz : decode .one 0b01011110100101#14 = .ok (.sdz 0x25#7) := by decide
theorem test_decode_rla : decode .one 0b01100000100101#14 = .ok (.rla 0x25#7) := by decide
theorem test_decode_rl : decode .one 0b01100010100101#14 = .ok (.rl 0x25#7) := by decide
theorem test_decode_rra : decode .one 0b01100100100101#14 = .ok (.rra 0x25#7) := by decide
theorem test_decode_rr : decode .one 0b01100110100101#14 = .ok (.rr 0x25#7) := by decide
theorem test_decode_rlca : decode .one 0b01101000100101#14 = .ok (.rlca 0x25#7) := by decide
theorem test_decode_rlc : decode .one 0b01101010100101#14 = .ok (.rlc 0x25#7) := by decide
theorem test_decode_rrca : decode .one 0b01101100100101#14 = .ok (.rrca 0x25#7) := by decide
theorem test_decode_rrc : decode .one 0b01101110100101#14 = .ok (.rrc 0x25#7) := by decide
theorem test_decode_tabrdc : decode .one 0b01110100100101#14 = .ok (.tabrdc 0x25#7) := by decide
theorem test_decode_tabrdl : decode .one 0b01110110100101#14 = .ok (.tabrdl 0x25#7) := by decide
theorem test_decode_daa : decode .one 0b01111010100101#14 = .ok (.daa 0x25#7) := by decide
theorem test_decode_clrM : decode .one 0b01111100100101#14 = .ok (.clrM 0x25#7) := by decide
theorem test_decode_setM : decode .one 0b01111110100101#14 = .ok (.setM 0x25#7) := by decide
theorem test_decode_call : decode .one 0b10001010100101#14 = .ok (.call 0x2A5#11) := by decide
theorem test_decode_jmp : decode .one 0b10101010100101#14 = .ok (.jmp 0x2A5#11) := by decide
theorem test_decode_setBit : decode .one 0b11001010100101#14 = .ok (.setBit 0x25#7 5#3) := by decide
theorem test_decode_clrBit : decode .one 0b11011010100101#14 = .ok (.clrBit 0x25#7 5#3) := by decide
theorem test_decode_snzBit : decode .one 0b11101010100101#14 = .ok (.snzBit 0x25#7 5#3) := by decide
theorem test_decode_szBit : decode .one 0b11111010100101#14 = .ok (.szBit 0x25#7 5#3) := by decide

/-- B12: the words that mean nothing, at the ends of the four ranges of R97. -/
theorem test_decode_unmapped :
    ([0x0006#14, 0x007F#14, 0x0780#14, 0x08FF#14, 0x1C00#14, 0x1CFF#14, 0x1E00#14, 0x1E7F#14] : List Word14).all
      (fun w => decoded .one w == none) = true := by decide

/-- B12: the words next to these ranges. -/
theorem test_decode_around_unmapped :
    ([0x0005#14, 0x0080#14, 0x077F#14, 0x0900#14, 0x1BFF#14, 0x1D00#14, 0x1DFF#14, 0x1E80#14] : List Word14).map
      (decoded .one) =
      [some .clrWdt2, some (.movMemA 0x00#7), some (.movAM 0x7F#7), some (.retAX 0x00#8), some (.rrc 0x7F#7),
        some (.tabrdc 0x00#7), some (.tabrdl 0x7F#7), some (.daa 0x00#7)] := by decide

theorem test_decodeTableWord : decodeTableWord 14 0x33BF = some (.setBit 0x3F#7 7#3) ∧
    decodeTableWord 16 0x0FA5 = some (.movAX 0xA5#8) ∧ decodeTableWord 14 0x0006 = none := by decide

/-! ## One step per instruction (B1 to B11) -/

/-- `NOP`: 00_scope.md rule R11; PC wraps, D3. -/
theorem test_nop :
    after { base with pc := 0x3FF#10 } 0x0000#14 (fun t => t.pc) =
      some 0x000#10 := by decide

/-- `CLR WDT`: R208. -/
theorem test_clrWdt :
    after { base with flagTO := true, flagPD := false, wdt := 200, cfg := wdtOne } 0x0001#14
      (fun t => (t.pc, t.flagTO, t.wdt)) =
      some (0x011#10, false, 0) := by decide

/-- `CLR WDT`: R208; watchdog disabled: nothing, D16. -/
theorem test_clrWdt_again :
    after { base with flagTO := true, flagPD := true } 0x0001#14 (fun t => (t.pc, t.flagTO, t.flagPD)) =
      some (0x011#10, true, true) := by decide

/-- `CLR WDT1`: R209; completes the pair. -/
theorem test_clrWdt1 :
    after { base with w1 := false, w2 := true, flagTO := true, wdt := 100, cfg := wdtTwo } 0x0001#14
      (fun t => (t.pc, t.flagTO, t.w2, t.wdt)) =
      some (0x011#10, false, false, 0) := by decide

/-- `CLR WDT1`: R209; repeated: no clearing, counter goes on. -/
theorem test_clrWdt1_again :
    after { base with w1 := true, w2 := false, flagTO := true, wdt := 100, cfg := wdtTwo } 0x0001#14
      (fun t => (t.pc, t.wdt, t.flagTO)) =
      some (0x011#10, 101, true) := by decide

/-- `HALT`: R213. -/
theorem test_halt :
    after { base with pc := 0x00A#10, flagTO := true } 0x0002#14 (fun t => (t.pc, t.flagPD, t.flagTO, t.halted)) =
      some (0x00B#10, true, false, true) := by decide

/-- `RET`: R191. -/
theorem test_ret :
    after { base with stk := 0x003#10, stkv := true } 0x0003#14 (fun t => (t.pc, t.stkv)) =
      some (0x003#10, false) := by decide

/-- `RETI`: R194; as RET, D19. -/
theorem test_reti :
    after { base with stk := 0x055#10, stkv := true } 0x0004#14 (fun t => (t.pc, t.stkv)) =
      some (0x055#10, false) := by decide

/-- `CLR WDT2`: R210; first of the pair. -/
theorem test_clrWdt2 :
    after { base with w1 := false, w2 := false, flagTO := true, wdt := 100, cfg := wdtTwo } 0x0005#14
      (fun t => (t.pc, t.w2, t.wdt)) =
      some (0x011#10, true, 101) := by decide

/-- `MOV [08H],A`: R172; TBLH read-only, D6. -/
theorem test_movMemA :
    after { base with acc := 0x3F#8 } 0x0088#14 (fun t => t.pc) =
      some 0x011#10 := by decide

/-- `MOV [14H],A`: R172; only PB1-0 have a latch, D29. -/
theorem test_movMemA_again :
    after { base with acc := 0x00#8 } 0x0094#14 (fun t => (t.pc, t.pbL)) =
      some (0x011#10, 0x0#2) := by decide

/-- `CPLA [20H]`: R141; memory unchanged. -/
theorem test_cpla :
    after { base with ram := [(0x20, 0x5A#8)] } 0x0120#14 (fun t => (t.pc, t.acc)) =
      some (0x011#10, 0xA5#8) := by decide

/-- `CPL [20H]`: R140. -/
theorem test_cpl :
    after { base with ram := [(0x20, 0xFF#8)] } 0x01A0#14 (fun t => (t.pc, t.flagZ, t.cell 0x20)) =
      some (0x011#10, true, 0x00#8) := by decide

/-- `SUB A,[20H]`: R117. -/
theorem test_subAM :
    after { base with acc := 0x05#8, ram := [(0x20, 0x03#8)] } 0x0220#14 (fun t => (t.pc, t.acc, t.flagC, t.flagAC)) =
      some (0x011#10, 0x02#8, true, true) := by decide

/-- `SUBM A,[20H]`: R118; ACC - [m] to [m]. -/
theorem test_subm :
    after { base with acc := 0x80#8, ram := [(0x20, 0x01#8)] } 0x02A0#14
      (fun t => (t.pc, t.flagC, t.flagOV, t.cell 0x20)) =
      some (0x011#10, true, true, 0x7F#8) := by decide

/-- `ADD A,[20H]`: R111. -/
theorem test_addAM :
    after { base with acc := 0x19#8, ram := [(0x20, 0x28#8)] } 0x0320#14 (fun t => (t.pc, t.acc, t.flagAC)) =
      some (0x011#10, 0x41#8, true) := by decide

/-- `ADDM A,[20H]`: R112; ACC unchanged. -/
theorem test_addm :
    after { base with acc := 0x7F#8, ram := [(0x20, 0x01#8)] } 0x03A0#14
      (fun t => (t.pc, t.flagAC, t.flagOV, t.cell 0x20)) =
      some (0x011#10, true, true, 0x80#8) := by decide

/-- `ADDM A,[06H]`: R112; PCL read = 11H, short jump, rule R80 (c). -/
theorem test_addm_again :
    after { base with acc := 0x02#8 } 0x0386#14 (fun t => t.pc) =
      some 0x013#10 := by decide

/-- `XOR A,[20H]`: R133. -/
theorem test_xorAM :
    after { base with acc := 0xAA#8, ram := [(0x20, 0xAA#8)] } 0x0420#14 (fun t => (t.pc, t.acc, t.flagZ)) =
      some (0x011#10, 0x00#8, true) := by decide

/-- `XORM A,[20H]`: R136. -/
theorem test_xorm :
    after { base with acc := 0xFF#8, ram := [(0x20, 0x55#8)] } 0x04A0#14 (fun t => (t.pc, t.cell 0x20)) =
      some (0x011#10, 0xAA#8) := by decide

/-- `OR A,[20H]`: R132. -/
theorem test_orAM :
    after { base with acc := 0xF0#8, ram := [(0x20, 0x0F#8)] } 0x0520#14 (fun t => (t.pc, t.acc)) =
      some (0x011#10, 0xFF#8) := by decide

/-- `ORM A,[20H]`: R135. -/
theorem test_orm :
    after { base with acc := 0x00#8 } 0x05A0#14 (fun t => (t.pc, t.flagZ)) =
      some (0x011#10, true) := by decide

/-- `AND A,[20H]`: R131; C, AC, OV untouched. -/
theorem test_andAM :
    after { base with acc := 0xF0#8, flagC := true, flagOV := true, ram := [(0x20, 0x0F#8)] } 0x0620#14
      (fun t => (t.pc, t.acc, t.flagZ)) =
      some (0x011#10, 0x00#8, true) := by decide

/-- `ANDM A,[20H]`: R134; destination is memory (90_conflicts.md C4). -/
theorem test_andm :
    after { base with acc := 0x3C#8, ram := [(0x20, 0x0F#8)] } 0x06A0#14 (fun t => (t.pc, t.cell 0x20)) =
      some (0x011#10, 0x0C#8) := by decide

/-- `MOV A,[20H]`: R171; Z not set by a zero. -/
theorem test_movAM :
    after { base with flagZ := false } 0x0720#14 (fun t => t.pc) =
      some 0x011#10 := by decide

/-- `MOV A,[08H]`: R171. -/
theorem test_movAM_again :
    after { base with tblh := 0x2A#6 } 0x0708#14 (fun t => (t.pc, t.acc)) =
      some (0x011#10, 0x2A#8) := by decide

/-- `RET A,30H`: R192. -/
theorem test_retAX :
    after { base with stk := 0x004#10, stkv := true } 0x0930#14 (fun t => (t.pc, t.stkv, t.acc)) =
      some (0x004#10, false, 0x30#8) := by decide

/-- `SUB A,05H`: R116; borrow: C = 0. -/
theorem test_subAX :
    after { base with acc := 0x03#8 } 0x0A05#14 (fun t => (t.pc, t.acc)) =
      some (0x011#10, 0xFE#8) := by decide

/-- `ADD A,3AH`: R113. -/
theorem test_addAX :
    after { base with acc := 0xC6#8 } 0x0B3A#14 (fun t => (t.pc, t.acc, t.flagC, t.flagAC, t.flagZ)) =
      some (0x011#10, 0x00#8, true, true, true) := by decide

/-- `XOR A,FFH`: R139. -/
theorem test_xorAX :
    after { base with acc := 0x5A#8 } 0x0CFF#14 (fun t => (t.pc, t.acc)) =
      some (0x011#10, 0xA5#8) := by decide

/-- `OR A,00H`: R138; the idiom "set Z from ACC". -/
theorem test_orAX :
    after { base with acc := 0x00#8 } 0x0D00#14 (fun t => (t.pc, t.flagZ)) =
      some (0x011#10, true) := by decide

/-- `AND A,0FH`: R137. -/
theorem test_andAX :
    after { base with acc := 0xA5#8 } 0x0E0F#14 (fun t => (t.pc, t.acc)) =
      some (0x011#10, 0x05#8) := by decide

/-- `MOV A,A5H`: R173. -/
theorem test_movAX :
    after base 0x0FA5#14 (fun t => (t.pc, t.acc)) =
      some (0x011#10, 0xA5#8) := by decide

/-- `SZA [20H]`: R183; ACC written, D26. -/
theorem test_sza :
    after { base with acc := 0x55#8 } 0x1020#14 (fun t => (t.pc, t.acc)) =
      some (0x012#10, 0x00#8) := by decide

/-- `SZA [20H]`: R183. -/
theorem test_sza_again :
    after { base with acc := 0x55#8, ram := [(0x20, 0x07#8)] } 0x1020#14 (fun t => (t.pc, t.acc)) =
      some (0x011#10, 0x07#8) := by decide

/-- `SZ [20H]`: R182; skip. -/
theorem test_sz :
    after base 0x10A0#14 (fun t => t.pc) =
      some 0x012#10 := by decide

/-- `SWAPA [20H]`: R212. -/
theorem test_swapa :
    after { base with ram := [(0x20, 0x1F#8)] } 0x1120#14 (fun t => (t.pc, t.acc)) =
      some (0x011#10, 0xF1#8) := by decide

/-- `SWAP [20H]`: R211. -/
theorem test_swap :
    after { base with ram := [(0x20, 0xA5#8)] } 0x11A0#14 (fun t => (t.pc, t.cell 0x20)) =
      some (0x011#10, 0x5A#8) := by decide

/-- `SBC A,[20H]`: R119; C = 0 subtracts one more. -/
theorem test_sbcAM :
    after { base with acc := 0x50#8, flagC := false, ram := [(0x20, 0x50#8)] } 0x1220#14 (fun t => (t.pc, t.acc)) =
      some (0x011#10, 0xFF#8) := by decide

/-- `SBCM A,[20H]`: R120. -/
theorem test_sbcm :
    after { base with acc := 0x00#8, flagC := false, ram := [(0x20, 0xFF#8)] } 0x12A0#14
      (fun t => (t.pc, t.flagZ, t.cell 0x20)) =
      some (0x011#10, true, 0x00#8) := by decide

/-- `ADC A,[20H]`: R114; FFH + FFH + 1 = FFH, C stays 1. -/
theorem test_adcAM :
    after { base with acc := 0xFF#8, flagC := true, ram := [(0x20, 0xFF#8)] } 0x1320#14 (fun t => (t.pc, t.flagAC)) =
      some (0x011#10, true) := by decide

/-- `ADCM A,[20H]`: R115. -/
theorem test_adcm :
    after { base with acc := 0x7F#8, flagC := true, ram := [(0x20, 0x7F#8)] } 0x13A0#14
      (fun t => (t.pc, t.flagC, t.flagAC, t.flagOV, t.cell 0x20)) =
      some (0x011#10, false, true, true, 0xFF#8) := by decide

/-- `INCA [20H]`: R151; memory unchanged, AC not written. -/
theorem test_inca :
    after { base with ram := [(0x20, 0x0F#8)] } 0x1420#14 (fun t => (t.pc, t.acc)) =
      some (0x011#10, 0x10#8) := by decide

/-- `INC [20H]`: R152; wraps, C not written. -/
theorem test_inc :
    after { base with flagC := false, ram := [(0x20, 0xFF#8)] } 0x14A0#14 (fun t => (t.pc, t.flagZ, t.cell 0x20)) =
      some (0x011#10, true, 0x00#8) := by decide

/-- `INC [01H]`: R152, rule R80 (f): reads FFH, Z from 8 bits, MP keeps 6. -/
theorem test_inc_again :
    after { base with mp := 0x3F#6 } 0x1481#14 (fun t => (t.pc, t.mp, t.flagZ)) =
      some (0x011#10, 0x00#6, true) := by decide

/-- `DECA [20H]`: R153. -/
theorem test_deca :
    after { base with ram := [(0x20, 0x80#8)] } 0x1520#14 (fun t => (t.pc, t.acc)) =
      some (0x011#10, 0x7F#8) := by decide

/-- `DEC [20H]`: R154. -/
theorem test_dec :
    after { base with ram := [(0x20, 0x01#8)] } 0x15A0#14 (fun t => (t.pc, t.flagZ, t.cell 0x20)) =
      some (0x011#10, true, 0x00#8) := by decide

/-- `SIZA [20H]`: R188; memory unchanged. -/
theorem test_siza :
    after { base with acc := 0x33#8, ram := [(0x20, 0xFF#8)] } 0x1620#14 (fun t => (t.pc, t.acc)) =
      some (0x012#10, 0x00#8) := by decide

/-- `SIZ [20H]`: R186; Z not written. -/
theorem test_siz :
    after { base with ram := [(0x20, 0xFF#8)] } 0x16A0#14 (fun t => (t.pc, t.cell 0x20)) =
      some (0x012#10, 0x00#8) := by decide

/-- `SIZ [06H]`: R186; PCL read 21H, result 22H: plain PCL load, 2 cycles. -/
theorem test_siz_again :
    after { base with pc := 0x020#10 } 0x1686#14 (fun t => t.pc) =
      some 0x022#10 := by decide

/-- `SDZA [20H]`: R189. -/
theorem test_sdza :
    after { base with ram := [(0x20, 0x02#8)] } 0x1720#14 (fun t => (t.pc, t.acc)) =
      some (0x011#10, 0x01#8) := by decide

/-- `SDZ [20H]`: R187. -/
theorem test_sdz :
    after { base with pc := 0x005#10, ram := [(0x20, 0x01#8)] } 0x17A0#14 (fun t => (t.pc, t.cell 0x20)) =
      some (0x007#10, 0x00#8) := by decide

/-- `SDZ [20H]`: R187; 00H gives FFH, no skip. -/
theorem test_sdz_again :
    after base 0x17A0#14 (fun t => (t.pc, t.cell 0x20)) =
      some (0x011#10, 0xFF#8) := by decide

/-- `RLA [20H]`: R165. -/
theorem test_rla :
    after { base with ram := [(0x20, 0x81#8)] } 0x1820#14 (fun t => (t.pc, t.acc)) =
      some (0x011#10, 0x03#8) := by decide

/-- `RL [20H]`: R166; no flag. -/
theorem test_rl :
    after { base with ram := [(0x20, 0x81#8)] } 0x18A0#14 (fun t => (t.pc, t.cell 0x20)) =
      some (0x011#10, 0x03#8) := by decide

/-- `RRA [20H]`: R161. -/
theorem test_rra :
    after { base with ram := [(0x20, 0x01#8)] } 0x1920#14 (fun t => (t.pc, t.acc)) =
      some (0x011#10, 0x80#8) := by decide

/-- `RR [0AH]`: R162; allowed on STATUS: reads 01H, result 80H, bits 3-0 = 0. -/
theorem test_rr :
    after { base with flagC := true } 0x198A#14 (fun t => (t.pc, t.flagC)) =
      some (0x011#10, false) := by decide

/-- `RR [20H]`: R162. -/
theorem test_rr_again :
    after { base with ram := [(0x20, 0x81#8)] } 0x19A0#14 (fun t => (t.pc, t.cell 0x20)) =
      some (0x011#10, 0xC0#8) := by decide

/-- `RLCA [20H]`: R167. -/
theorem test_rlca :
    after { base with flagC := true, ram := [(0x20, 0x80#8)] } 0x1A20#14 (fun t => (t.pc, t.acc)) =
      some (0x011#10, 0x01#8) := by decide

/-- `RLC [20H]`: R168; 9-bit rotate. -/
theorem test_rlc :
    after { base with flagC := false, ram := [(0x20, 0x81#8)] } 0x1AA0#14 (fun t => (t.pc, t.flagC, t.cell 0x20)) =
      some (0x011#10, true, 0x02#8) := by decide

/-- `RRCA [20H]`: R163. -/
theorem test_rrca :
    after { base with flagC := true, ram := [(0x20, 0xFE#8)] } 0x1B20#14 (fun t => (t.pc, t.acc, t.flagC)) =
      some (0x011#10, 0xFF#8, false) := by decide

/-- `RRC [20H]`: R164; result 00H and Z stays 0. -/
theorem test_rrc :
    after { base with flagC := false, ram := [(0x20, 0x01#8)] } 0x1BA0#14 (fun t => (t.pc, t.flagC, t.cell 0x20)) =
      some (0x011#10, true, 0x00#8) := by decide

/-- `TABRDC [20H]`: R201, rule R277: at xFFH the page is the next one. -/
theorem test_tabrdc :
    after { base with pc := 0x1FF#10, tblp := 0x10#8, rom := [(0x210, 0x0DEF#14)] } 0x1D20#14
      (fun t => (t.pc, t.tblh, t.cell 0x20)) =
      some (0x200#10, 0x0D#6, 0xEF#8) := by decide

/-- `TABRDL [0AH]`: R202; allowed: C, AC, Z, OV from bits 3-0. -/
theorem test_tabrdl :
    after { base with tblp := 0x02#8, rom := [(0x302, 0x157F#14)] } 0x1D8A#14
      (fun t => (t.pc, t.tblh, t.flagC, t.flagAC, t.flagZ, t.flagOV)) =
      some (0x011#10, 0x15#6, true, true, true, true) := by decide

/-- `TABRDL [23H]`: R202. -/
theorem test_tabrdl_again :
    after { base with tblp := 0x01#8, rom := [(0x301, 0x2A5C#14)] } 0x1DA3#14 (fun t => (t.pc, t.tblh, t.cell 0x23)) =
      some (0x011#10, 0x2A#6, 0x5C#8) := by decide

/-- `DAA [25H]`: R121; C only ever set. -/
theorem test_daa :
    after { base with acc := 0x9A#8 } 0x1EA5#14 (fun t => (t.pc, t.flagC, t.cell 0x25)) =
      some (0x011#10, true, 0x00#8) := by decide

/-- `CLR [21H]`: R206; Z not set. -/
theorem test_clrM :
    after { base with flagZ := false, ram := [(0x21, 0xA5#8)] } 0x1F21#14 (fun t => (t.pc, t.cell 0x21)) =
      some (0x011#10, 0x00#8) := by decide

/-- `SET [05H]`: R207. -/
theorem test_setM :
    after base 0x1F85#14 (fun t => (t.pc, t.acc)) =
      some (0x011#10, 0xFF#8) := by decide

/-- `CALL 200H`: R190; saves 000H. -/
theorem test_call :
    after { base with pc := 0x3FF#10 } 0x2200#14 (fun t => (t.pc, t.stk, t.stkv)) =
      some (0x200#10, 0x000#10, true) := by decide

/-- `CALL 200H`: R190; overflow: older address lost, no error. -/
theorem test_call_again :
    after { base with pc := 0x123#10, stk := 0x055#10, stkv := true } 0x2200#14 (fun t => (t.pc, t.stk)) =
      some (0x200#10, 0x124#10) := by decide

/-- `JMP 3FFH`: R181. -/
theorem test_jmp :
    after base 0x2BFF#14 (fun t => t.pc) =
      some 0x3FF#10 := by decide

/-- `SET [20H].7`: R177. -/
theorem test_setBit :
    after base 0x33A0#14 (fun t => (t.pc, t.cell 0x20)) =
      some (0x011#10, 0x80#8) := by decide

/-- `CLR [20H].0`: R176. -/
theorem test_clrBit :
    after { base with ram := [(0x20, 0xFF#8)] } 0x3420#14 (fun t => (t.pc, t.cell 0x20)) =
      some (0x011#10, 0xFE#8) := by decide

/-- `SNZ [0AH].2`: R185. -/
theorem test_snzBit :
    after { base with pc := 0x020#10, flagZ := true } 0x390A#14 (fun t => t.pc) =
      some 0x022#10 := by decide

/-- `SZ [0AH].0`: R184; no skip. -/
theorem test_szBit :
    after { base with flagC := true } 0x3C0A#14 (fun t => t.pc) =
      some 0x011#10 := by decide

/-! ## Refused steps (B1, B7, B9, B11, B12, B14) -/

theorem test_refuse_unmapped : refusal base 0x1C00#14 = some .unmappedWord := by decide

/-- `MOV A,[40H]`. -/
theorem test_refuse_data_address : refusal base 0x0740#14 = some .dataAddressAbove3FH := by decide

/-- The JMP pattern with bit 10 set. -/
theorem test_refuse_program_address : refusal base 0x2C00#14 = some .programAddressAbove3FFH := by decide

/-- `RET` with nothing pushed. -/
theorem test_refuse_empty_stack : refusal base 0x0003#14 = some .returnWithEmptyStack := by decide

/-- `ADDM A,[0AH]`. -/
theorem test_refuse_status : refusal base 0x038A#14 = some .flagWriteToStatus := by decide

/-- `SIZ [06H]` at 0FEH. -/
theorem test_refuse_skip_and_load : refusal { base with pc := 0x0FE#10 } 0x1686#14 = some .skipWithPclLoad := by decide

/-- `CLR WDT2` with CLRWDT_TIMES = 1. -/
theorem test_refuse_unselected_group :
    refusal { base with cfg := wdtOne } 0x0005#14 = some .clrWdtGroupNotSelected := by decide

/-- B12: `SZ [20H]` skips a word that would be refused. -/
theorem test_skipped_word_not_decoded :
    (Host.Core.run core 2
      { base with rom := [(0x010, 0x10A0#14), (0x011, 0x0006#14)] } matches .next _) = true := by decide

/-! ## The ALU tables -/

/-- A row of B1 and B2: result, C, AC, Z, OV. -/
def aluRow (v : Byte) (c ac z ov : Bool) : AluResult :=
  { value := v, flags := { c := some c, ac := some ac, z := some z, ov := some ov } }

/-- B1, rows 3, 4, 6, 12. -/
theorem test_add8 :
    add8 true 0x7F#8 0x01#8 false = aluRow 0x80#8 false true false true ∧
    add8 true 0x80#8 0x80#8 false = aluRow 0x00#8 true false true true ∧
    add8 true 0xFF#8 0xFF#8 true = aluRow 0xFF#8 true true false false ∧
    add8 true 0xC0#8 0xC0#8 false = aluRow 0x80#8 true false false false := by decide

/-- B1 row 4 and B2 rows 4 and 5 with OV_SYMMETRIC = false. -/
theorem test_add8_one_sided_overflow :
    (add8 false 0x80#8 0x80#8 false).flags.ov = some false ∧ (add8 false 0x80#8 0xFE#8 true).flags.ov = some false ∧
    (add8 false 0x7F#8 0x00#8 true).flags.ov = some true := by decide

/-- B2, rows 3, 4, 8, 9: the operand complemented. -/
theorem test_add8_subtracts :
    add8 true 0x03#8 (~~~0x05#8) true = aluRow 0xFE#8 false false false false ∧
    add8 true 0x80#8 (~~~0x01#8) true = aluRow 0x7F#8 true false false true ∧
    add8 true 0x50#8 (~~~0x50#8) false = aluRow 0xFF#8 false false false false ∧
    add8 true 0x50#8 (~~~0x4F#8) false = aluRow 0x00#8 true false true false := by decide

/-- B3, all fourteen rows: ACC, AC, C, the byte stored, C after. -/
theorem test_decimalAdjust :
    ([(0x41#8, true, false, 0x47#8, false), (0x0A#8, false, false, 0x10#8, false), (0x9A#8, false, false, 0x00#8, true),
      (0xA0#8, false, false, 0x00#8, true), (0x12#8, true, true, 0x78#8, true), (0x99#8, false, false, 0x99#8, false),
      (0x00#8, false, false, 0x00#8, false), (0x0A#8, true, false, 0x00#8, false), (0xFF#8, false, false, 0x65#8, true),
      (0x66#8, false, true, 0xC6#8, true), (0x9F#8, false, false, 0x05#8, true), (0x3C#8, false, false, 0x42#8, false),
      (0x00#8, true, true, 0x66#8, true), (0x9A#8, true, false, 0x90#8, false)] :
        List (Byte × Bool × Bool × Byte × Bool)).all
      (fun (acc, ac, c, r, c') => decimalAdjust acc ac c == { value := r, flags := { c := some c' } }) = true := by decide

/-! ## Resets, watchdog, HALT, wake-up (B13) -/

/-- RES while running: TO and PD unchanged, ACC and RAM kept. -/
theorem test_res_normal :
    after { base with
        acc := 0x5A#8, ram := [(0x20, 0x11#8)], paL := 0x0F#8, stkv := true, flagTO := true
        inputs := [{ extPA := 0xFF#8, extPB := 0xFF#8, event := some .resLow }] } 0x0000#14
      (fun t => ((t.pc, t.flagTO, t.flagPD), t.acc, t.cell 0x20, t.paL, t.stkv)) =
      some ((0x000#10, true, false), 0x5A#8, 0x11#8, 0xFF#8, false) := by decide

/-- RES while halted, with a falling edge at the same boundary. -/
theorem test_res_halt :
    afterStep { asleep with acc := 0x77#8, inputs := [{ extPA := 0xFF#8, extPB := 0xFE#8, event := some .resLow }] }
      (fun t => (t.pc, t.flagTO, t.flagPD, t.acc, t.halted)) = some (0x000#10, false, true, 0x77#8, false) := by decide

/-- A power-on leaves what the environment draws. -/
theorem test_power_on :
    after { base with
        flagTO := true, ram := [(0x20, 0x11#8)]
        inputs := [{
          extPA := 0xFF#8, extPB := 0xFF#8
          event := some (.powerOn {
            acc := 0xA5#8, mp := 0x3F#6, tblp := 0#8, tblh := 0#6, flagC := true, flagAC := false, flagZ := false
            flagOV := false, stk := 0x155#10, ram := [0x01#8, 0x02#8] }) }] } 0x0000#14
      (fun t => ((t.pc, t.acc, t.mp, t.flagC), t.flagTO, t.stk, t.cell 0x20, t.cell 0x21)) =
      some ((0x000#10, 0xA5#8, 0x3F#6, true), false, 0x155#10, 0x01#8, 0x02#8) := by decide

/-- NOP with the count at 255: time-out; at 254: none. -/
theorem test_watchdog_timeout :
    after { base with cfg := wdtOne, wdt := 255, stkv := true, flagPD := true } 0x0000#14
      (fun t => (t.pc, t.flagTO, t.flagPD, t.stkv, t.wdt)) = some (0x000#10, true, true, false, 0) ∧
    after { base with cfg := wdtOne, wdt := 254 } 0x0000#14 (fun t => (t.pc, t.flagTO, t.wdt)) =
      some (0x011#10, false, 255) := by decide

/-- JMP (two cycles) with the count at 254: time-out. HALT and CLR WDT at 255: none. -/
theorem test_watchdog_cycles :
    after { base with cfg := wdtOne, wdt := 254 } 0x2810#14 (fun t => (t.pc, t.flagTO)) = some (0x000#10, true) ∧
    after { base with cfg := wdtOne, wdt := 255 } 0x0002#14 (fun t => (t.flagTO, t.wdt, t.halted)) =
      some (false, 0, true) ∧
    after { base with cfg := wdtOne, wdt := 255 } 0x0001#14 (fun t => (t.flagTO, t.wdt)) = some (false, 0) := by decide

/-- PB3 falls while halted. -/
theorem test_wake_up :
    afterStep { asleep with inputs := [{ extPA := 0xFF#8, extPB := 0xF7#8, event := none }] }
      (fun t => (t.halted, t.pc, t.flagPD, t.flagTO)) = some (false, 0x00B#10, true, false) := by decide

/-- PB3 low and staying low is no edge; PB3 falling without its option wakes nothing. -/
theorem test_no_wake_up :
    afterStep { asleep with extPB := 0xF7#8, inputs := [{ extPA := 0xFF#8, extPB := 0xF7#8, event := none }] }
      (fun t => t.halted) = some true ∧
    afterStep { asleep with
        cfg := { Cfg.standard with wake := 0xF7#8 }, inputs := [{ extPA := 0xFF#8, extPB := 0xF7#8, event := none }] }
      (fun t => t.halted) = some true := by decide

/-- Every PB line with its option falls while the chip runs (D25): a NOP runs as ever; HALT with the
lines low already stops the chip, since no edge is remembered. -/
theorem test_edge_while_running :
    after { base with
        cfg := asleep.cfg, extPB := 0xFF#8, inputs := [{ extPA := 0xFF#8, extPB := 0x00#8, event := none }] } 0x0000#14
      (fun t => (t.pc, t.halted, t.extPB)) = some (0x011#10, false, 0x00#8) ∧
    after { base with cfg := asleep.cfg, extPB := 0x00#8 } 0x0002#14 (fun t => t.halted) = some true := by decide

/-- A8: 3 by 1/3 and 2 by 1/2. -/
theorem test_carrier :
    { base with pc0L := false, cfg := { Cfg.standard with pc0Mode := .carrier, carM := .three } }.remPin =
      .carrier 3 .third ∧
    { base with pc0L := false, cfg := { Cfg.standard with pc0Mode := .carrier } }.remPin = .carrier 2 .half := by decide

/-- R252: RC mode running and in HALT. -/
theorem test_osc2 :
    { base with cfg := { Cfg.standard with osc := .rc } }.osc2Pin = .clockDividedByFour ∧
    { base with cfg := { Cfg.standard with osc := .rc }, halted := true }.osc2Pin = .clockStopped := by decide

/-- R94: under another ENC 0000H is HALT and NOP has two words; R92: a JMP row with another target is no row. -/
theorem test_other_enc :
    after { base with cfg := otherEnc } 0x0000#14 (fun t => (t.halted, t.pc)) = some (true, 0x011#10) ∧
    after { base with cfg := otherEnc } 0x1005#14 (fun t => t.pc) = some 0x005#10 ∧
    refusal { base with cfg := otherEnc } 0x1006#14 = some .unmappedWord ∧
    encodeUnder otherEnc .ret = none ∧ encodeUnder otherEnc .nop = some 0x0001#14 := by decide

/-- D14: a decoded CLR WDT under another ENC, with the pair selected, is refused. -/
theorem test_other_enc_clrWdt :
    refusal { base with cfg := { wdtTwo with enc := .listed [(0x0001#14, .clrWdt)] } } 0x0001#14 =
      some .clrWdtGroupNotSelected := by decide


/-! ## Witnesses: states and operands that meet the hypotheses of each statement that has any -/

theorem witness_DecodeEncodeAgree :
    Instr.clrWdt.selectedBy .one = true ∧ Instr.clrWdt1.selectedBy .two = true ∧
    (Instr.szBit 0x7F#7 7#3).selectedBy .one = true ∧ (Instr.call 0x7FF#11).selectedBy .two = true := by decide

theorem witness_EncodeDecodeAgree :
    decode .one 0x3FFF#14 = .ok (.szBit 0x7F#7 7#3) ∧ decode .two 0x0001#14 = .ok .clrWdt1 := by decide

/-- Under the default ENC and under another. -/
theorem witness_JumpTargetIsWordBits :
    decodeUnder base.cfg 0x2BFF#14 = .ok (.jmp 0x3FF#11) ∧ decodeUnder base.cfg 0x2000#14 = .ok (.call 0x000#11) ∧
    decodeUnder { base with cfg := otherEnc }.cfg 0x1005#14 = .ok (.jmp 0x005#11) ∧
    AddrField.inRange 0x3FF#11 = true ∧ AddrField.inRange 0x000#11 = true := by decide

/-- Both clauses, under the default ENC and under another. -/
theorem witness_EncodingIsAParameter :
    encodeUnder wdtTwo .clrWdt1 = some 0x0001#14 ∧ decodeUnder wdtTwo 0x0001#14 = .ok .clrWdt1 ∧
    encodeUnder otherEnc .nop = some 0x0001#14 ∧ decodeUnder otherEnc 0x0002#14 = .ok .nop := by decide

/-- An operand in range and one out of range; a halted machine. -/
theorem witness_StepRunsDecodedInstruction :
    asleep.halted = true ∧ base.halted = false ∧
    decodeUnder base.cfg (Memory.read { base with rom := [(0x010, 0x0FA5#14)] }.rom base.pc.toNat) =
      .ok (.movAX 0xA5#8) ∧
    decodeUnder base.cfg (Memory.read { base with rom := [(0x010, 0x0740#14)] }.rom base.pc.toNat) =
      .ok (.movAM 0x40#7) := by decide

/-- The first and the last word of each of the four ranges; a word that another ENC does not list. -/
theorem witness_UnmappedWordIsRefused :
    base.halted = false ∧ base.cfg.enc = .defaultTable ∧
    ([0x0006, 0x007F, 0x0780, 0x08FF, 0x1C00, 0x1CFF, 0x1E00, 0x1E7F] : List Nat).all
      (fun w => (Memory.read { base with rom := [(0x010, BitVec.ofNat 14 w)] }.rom base.pc.toNat).toNat == w) = true ∧
    ∃ rows, otherEnc.enc = .listed rows ∧ ∀ i, (0x3FFF#14, i) ∉ rows :=
  ⟨by decide, by decide, by decide, _, rfl, by simp⟩

/-- All lines enabled and PB0 rising (first clause); no input left (second clause). -/
theorem witness_HaltedCoreStandsStill :
    { asleep with extPB := 0xFE#8, inputs := [{ extPA := 0#8, extPB := 0xFF#8, event := none }] }.halted = true ∧
    { asleep with
      extPB := 0xFE#8, inputs := [{ extPA := 0#8, extPB := 0xFF#8, event := none }] }.currentInput.event = none ∧
    (∀ k, k < 8 → asleep.cfg.wake.getLsbD k = true → ({ asleep with extPB := 0xFE#8 }.pinB 0xFE#8).getLsbD k = true →
      (asleep.pinB 0xFF#8).getLsbD k = true) ∧
    asleep.inputs = [] := by decide

/-- The lowest and the highest line. -/
theorem witness_FallingEdgeWakes :
    asleep.halted = true ∧
    { asleep with inputs := [{ extPA := 0#8, extPB := 0x7E#8, event := none }] }.currentInput.event = none ∧
    asleep.cfg.wake.getLsbD 0 = true ∧ asleep.cfg.wake.getLsbD 7 = true ∧
    (asleep.pinB asleep.extPB).getLsbD 0 = true ∧ (asleep.pinB asleep.extPB).getLsbD 7 = true ∧
    (asleep.pinB 0x7E#8).getLsbD 0 = false ∧ (asleep.pinB 0x7E#8).getLsbD 7 = false := by decide

theorem witness_ResBeatsTimeoutAndWakeUp :
    { base with
      cfg := wdtOne, wdt := 300
      inputs := [{ extPA := 0#8, extPB := 0#8, event := some .resLow }] }.currentInput.event = some .resLow := by decide

/-- NOP with the count at 255 and WDT_N = 8. -/
theorem witness_WatchdogTimeoutResets :
    ∃ u, { base with cfg := wdtOne, wdt := 255 }.halted = false ∧
      { base with cfg := wdtOne, wdt := 255 }.fetch = .ok .nop ∧
      exec .nop { base with cfg := wdtOne, wdt := 255 }.advance = .next u ∧ u.halted = false ∧ u.cfg.wdtEn = true ∧
      2 ^ u.cfg.wdtN.toNat ≤ u.wdt ∧ u.currentInput.event = none :=
  ⟨_, by decide, by decide, rfl, by decide, by decide, by decide, by decide⟩

/-- Both clauses; the second also where every PB line falls. -/
theorem witness_NoTimeoutBelowPeriod :
    base.currentInput.event = none ∧ (255 < 2 ^ wdtOne.wdtN.toNat) ∧ asleep.halted = true ∧
    base.cfg.wdtEn = false ∧ base.halted = false ∧
    { base with inputs := [{ extPA := 0#8, extPB := 0#8, event := none }] }.currentInput.event = none := by decide

theorem witness_ResetTransition :
    (∀ u, ResetKind.resNormal ≠ .powerOn u) ∧ (∀ u, ResetKind.resHalt ≠ .powerOn u) ∧
    ∀ u, ResetKind.wdt ≠ .powerOn u := ⟨nofun, nofun, nofun⟩

/-- The values a power-on draws in the witnesses. -/
def drawn : PowerOnValues :=
  { acc := 0xA5#8, mp := 0x3F#6, tblp := 0#8, tblh := 0x2A#6, flagC := true, flagAC := false, flagZ := false
    flagOV := true, stk := 0x155#10, ram := List.replicate 32 0x3C#8 }

/-- The base state with a power-on coming. -/
def powered : State := { base with inputs := [{ extPA := 0#8, extPB := 0#8, event := some (.powerOn drawn) }] }

/-- A power-on while halted (R246, R226). -/
theorem test_power_on_in_halt :
    afterStep { powered with halted := true, flagPD := true } (fun t => (t.halted, t.pc, t.flagTO, t.flagPD)) =
      some (false, 0x000#10, false, false) := by decide

/-- The last of the 32 cells. -/
theorem witness_PowerOnLeavesAnyValue :
    powered.currentInput.event = some (.powerOn drawn) ∧ 31 < 32 ∧ 31 < drawn.ram.length := by decide

/-- The lowest and the highest data address, for every statement with one operand field. -/
theorem witness_AdditionsToAcc : (0x00#7).toNat ≤ 0x3F ∧ (0x3F#7).toNat ≤ 0x3F := by decide

/-- Direct and indirect, next to STATUS. -/
theorem witness_AdditionsToMemory :
    (0x3F#7).toNat ≤ 0x3F ∧ effectiveAddress 0x3F#7 base ≠ 0x0A#6 ∧
    (0x00#7).toNat ≤ 0x3F ∧ effectiveAddress 0x00#7 { base with mp := 0x09#6 } ≠ 0x0A#6 := by decide

theorem witness_SubtractionsToAcc : (0x00#7).toNat ≤ 0x3F ∧ (0x3F#7).toNat ≤ 0x3F := by decide

theorem witness_SubtractionsToMemory :
    (0x3F#7).toNat ≤ 0x3F ∧ effectiveAddress 0x3F#7 base ≠ 0x0A#6 ∧
    (0x00#7).toNat ≤ 0x3F ∧ effectiveAddress 0x00#7 { base with mp := 0x0B#6 } ≠ 0x0A#6 := by decide

/-- ACC = 9AH: both nibbles adjusted, the internal carry 1; ACC = 99H: none. -/
theorem witness_DaaStoresAdjustedAcc :
    effectiveAddress 0x25#7 base ≠ 0x0A#6 ∧
    (true = true ↔ 9 < (0x9A#8 : Byte).toNat % 16 ∨ base.flagAC = true) ∧
    1 = (if true = true ∧ base.flagAC = false then 1 else 0) ∧
    (true = true ↔ 9 < (0x9A#8 : Byte).toNat / 16 + 1 ∨ base.flagC = true) ∧
    (false = true ↔ 9 < (0x99#8 : Byte).toNat % 16 ∨ base.flagAC = true) ∧
    0 = (if false = true ∧ base.flagAC = false then 1 else 0) ∧
    (false = true ↔ 9 < (0x99#8 : Byte).toNat / 16 + 0 ∨ base.flagC = true) := by decide

theorem witness_DaaCorrectsDecimalSum :
    (0x20#7).toNat ≤ 0x3F ∧ IsBcd { base with acc := 0x99#8 }.acc ∧
    IsBcd (dread { base with ram := [(0x20, 0x99#8)] } (effectiveAddress 0x20#7 base)) := by
  unfold IsBcd; decide

/-- Each alternative of both clauses. -/
theorem witness_LogicInstructions :
    (Instr.andAX 0x0F#8 = .andAX 0x0F#8 ∧ (0x0F#8 : Byte) = 0x0F#8) ∧ (0x20#7).toNat ≤ 0x3F ∧
    0x00#8 = dread base (effectiveAddress 0x20#7 base) ∧ Instr.cpla 0x20#7 = .cpla 0x20#7 ∧
    effectiveAddress 0x20#7 base ≠ 0x0A#6 ∧ Instr.cpl 0x20#7 = .cpl 0x20#7 := by decide

theorem witness_IncrementAndDecrement :
    (0x00#7).toNat ≤ 0x3F ∧ effectiveAddress 0x00#7 base ≠ 0x0A#6 ∧
    (0x3F#7).toNat ≤ 0x3F ∧ effectiveAddress 0x3F#7 base ≠ 0x0A#6 := by decide

theorem witness_RotatesWithoutCarry : (0x00#7).toNat ≤ 0x3F ∧ (0x3F#7).toNat ≤ 0x3F := by decide

theorem witness_RotatesThroughCarry :
    (0x3F#7).toNat ≤ 0x3F ∧ effectiveAddress 0x3F#7 base ≠ 0x0A#6 ∧
    0x81#8 = dread { base with ram := [(0x3F, 0x81#8)] } (effectiveAddress 0x3F#7 base) ∧
    0x181#9 = BitVec.ofBool { base with flagC := true }.flagC ++ 0x81#8 := by decide

theorem witness_Moves : (0x00#7).toNat ≤ 0x3F ∧ (0x3F#7).toNat ≤ 0x3F := by decide

theorem witness_BitOperations : (0x00#7).toNat ≤ 0x3F ∧ (0x3F#7).toNat ≤ 0x3F := by decide

theorem witness_PortBitWriteRewritesLatch : base.cfg.portLowWins = true := by decide

theorem witness_WholeByteClearSetSwap : (0x00#7).toNat ≤ 0x3F ∧ (0x3F#7).toNat ≤ 0x3F := by decide

theorem witness_JumpAndCall : (0x000#11).toNat ≤ 0x3FF ∧ (0x3FF#11).toNat ≤ 0x3FF := by decide

/-- A byte that skips and one that does not. -/
theorem witness_SkipsOnTest :
    (0x3F#7).toNat ≤ 0x3F ∧ 0x00#8 = dread base (effectiveAddress 0x3F#7 base) ∧
    0x80#8 = dread { base with ram := [(0x3F, 0x80#8)] } (effectiveAddress 0x3F#7 base) := by decide

theorem witness_SkipsThroughAcc :
    (0x3F#7).toNat ≤ 0x3F ∧ Instr.sza 0x3F#7 = .sza 0x3F#7 ∧ Instr.siza 0x3F#7 = .siza 0x3F#7 ∧
    Instr.sdza 0x3F#7 = .sdza 0x3F#7 := by decide

/-- SIZ [06H] at 0FEH (refused), SIZ [06H] at 010H (a load of PCL), SDZ [20H] of 01H (a skip). -/
theorem witness_SkipsThroughMemory :
    (0x06#7).toNat ≤ 0x3F ∧
    (0x00#8 : Byte).toNat =
      ((dread { base with pc := 0x0FF#10 } (effectiveAddress 0x06#7 { base with pc := 0x0FF#10 })).toNat + 1) % 256 ∧
    effectiveAddress 0x06#7 { base with pc := 0x0FF#10 } = 0x06#6 ∧
    (0x11#8 : Byte).toNat = ((dread base (effectiveAddress 0x06#7 base)).toNat + 1) % 256 ∧
    (0x00#8 : Byte).toNat =
      ((dread { base with ram := [(0x20, 0x01#8)] } (effectiveAddress 0x20#7 base)).toNat + 255) % 256 := by decide

theorem witness_Returns : { base with stkv := true }.stkv = true ∧ base.stkv = false := by decide

theorem witness_ProgramReadsStayTheSame : ∃ t, step base = .next t := ⟨_, rfl⟩

theorem witness_StackHoldsOneAddress : (0x000#11).toNat ≤ 0x3FF ∧ (0x3FF#11).toNat ≤ 0x3FF := by decide

/-- TABRDC on the page of 1FFH and TABRDL at the last word. -/
theorem witness_TableReads :
    (0x20#7).toNat ≤ 0x3F ∧
    0x110 = { base with pc := 0x1FF#10, tblp := 0x10#8 }.pc.toNat / 256 * 256 +
      { base with pc := 0x1FF#10, tblp := 0x10#8 }.tblp.toNat ∧
    0x3FF = 0x300 + { base with tblp := 0xFF#8 }.tblp.toNat ∧
    0x3FFF#14 = Memory.read { base with rom := [(0x3FF, 0x3FFF#14)] }.rom 0x3FF := by decide

theorem witness_WatchdogClearing :
    base.cfg.wdtEn = false ∧ (wdtOne.wdtEn = true ∧ wdtOne.clrWdtTimes = .one) ∧
    wdtTwo.wdtEn = true ∧ wdtTwo.clrWdtTimes = .two := by decide

theorem witness_PairMustAlternate :
    wdtTwo.wdtEn = true ∧ wdtTwo.clrWdtTimes = .two ∧ base.w1 = false ∧ base.w2 = false ∧
    Instr.clrWdt1 = .clrWdt1 ∧ Instr.clrWdt2 = .clrWdt2 := by decide

theorem witness_EffectiveAddressOfField : (0x00#7).toNat ≤ 0x3F ∧ (0x01#7).toNat ≤ 0x3F ∧ (0x3F#7).toNat ≤ 0x3F := by decide

/-- Every clause of the map at an address of its own, the ranges at both ends. -/
theorem witness_DataReadMap :
    ([0x00, 0x01, 0x05, 0x06, 0x07, 0x08, 0x0A, 0x12, 0x14, 0x16, 0x20, 0x3F] : List Nat).all
      (fun n => (BitVec.ofNat 6 n).toNat == n) = true ∧
    ([0x02, 0x04, 0x09, 0x0B, 0x11, 0x13, 0x15, 0x17, 0x1F] : List Nat).all
      (fun n => locOf (BitVec.ofNat 6 n) == .reserved) = true := by decide

theorem witness_OperandOutOfRangeIsRefused :
    (Instr.movAM 0x40#7).wf = false ∧ (Instr.szBit 0x7F#7 0#3).wf = false ∧ (Instr.jmp 0x400#11).wf = false := by decide

/-- Direct and through MP; an instruction that writes flags and one that does not. -/
theorem witness_FlagWriteToStatusIsRefused :
    (0x0A#7).toNat ≤ 0x3F ∧ effectiveAddress 0x0A#7 base = 0x0A#6 ∧ (0x00#7).toNat ≤ 0x3F ∧
    effectiveAddress 0x00#7 { base with mp := 0x0A#6 } = 0x0A#6 ∧
    writtenOperand (.addm 0x0A#7) = some 0x0A#7 ∧ writtenOperand (.rl 0x00#7) = some 0x00#7 := by decide

theorem witness_RefusalsAreTheListedOnes :
    exec .ret base = .refused .returnWithEmptyStack ∧ refusalOf .ret base = some .returnWithEmptyStack := ⟨rfl, rfl⟩

theorem witness_EveryOtherInstructionCompletes :
    refusalOf (.addm 0x20#7) base = none ∧ refusalOf .ret { base with stkv := true } = none := by decide

theorem witness_StepKeepsInvariant : base.Inv ∧ asleep.Inv ∧ (∃ t, step base = .next t) ∧ ∃ t, step asleep = .next t :=
  ⟨by decide, by decide, ⟨_, rfl⟩, _, rfl⟩

theorem witness_StepKeepsRomAndOptions : ∃ t, step base = .next t := ⟨_, rfl⟩

/-- TABRDL [20H] of the word 2A00H; a power-on. -/
theorem witness_OnlyTableReadsChangeTblh :
    (∃ t, step { base with rom := [(0x010, 0x1DA0#14), (0x300, 0x2A00#14)] } = .next t ∧ t.tblh ≠ base.tblh) ∧
    ∃ t, step powered = .next t ∧ t.tblh ≠ powered.tblh :=
  ⟨⟨_, rfl, by decide⟩, _, rfl, by decide⟩

/-- HALT; CLR WDT; RES while halted; a watchdog time-out; a power-on; CALL; RET; each way to clear. -/
theorem witness_OnlyTheseEventsChangeToAndPd :
    (∃ t, step { base with rom := [(0x010, 0x0002#14)] } = .next t ∧ t.flagPD ≠ base.flagPD) ∧
    (∃ t, step { base with cfg := wdtOne, flagTO := true, rom := [(0x010, 0x0001#14)] } = .next t ∧ t.flagTO ≠ true) ∧
    (∃ t, step { base with
        halted := true, flagTO := true
        inputs := [{ extPA := 0#8, extPB := 0#8, event := some .resLow }] } = .next t ∧ t.flagTO ≠ true) ∧
    (∃ t, step { base with cfg := wdtOne, wdt := 255 } = .next t ∧ t.flagTO ≠ base.flagTO) ∧
    (∃ t, step { powered with flagPD := true } = .next t ∧ t.flagPD ≠ true) ∧
    (∃ t, exec (.call 0x3FF#11) base = .next t) ∧ (∃ t, exec .ret { base with stkv := true } = .next t) ∧
    ClearsWatchdog .clrWdt { base with cfg := wdtOne } ∧
    ClearsWatchdog .clrWdt1 { base with cfg := wdtTwo, w2 := true } ∧
    ClearsWatchdog .clrWdt2 { base with cfg := wdtTwo, w1 := true } ∧ ¬ ClearsWatchdog .nop base :=
  ⟨⟨_, rfl, by decide⟩, ⟨_, rfl, by decide⟩, ⟨_, rfl, by decide⟩, ⟨_, rfl, by decide⟩, ⟨_, rfl, by decide⟩, ⟨_, rfl⟩,
    ⟨_, rfl⟩, by unfold ClearsWatchdog; decide, by unfold ClearsWatchdog; decide, by unfold ClearsWatchdog; decide,
    by unfold ClearsWatchdog; decide⟩

theorem witness_OnlyHaltStopsTheCore :
    ∃ t, step { base with rom := [(0x010, 0x0002#14)] } = .next t ∧ base.halted = false ∧ t.halted = true :=
  ⟨_, rfl, by decide, by decide⟩

/-- Instructions: CALL, RET. Steps: CALL, a power-on, RES, a watchdog time-out. -/
theorem witness_OnlyCallsAndReturnsUseTheStack :
    (∃ t, exec (.call 0x3FF#11) base = .next t ∧ t.stk ≠ base.stk ∧ t.stkv ≠ base.stkv) ∧
    (∃ t, exec .ret { base with stkv := true } = .next t ∧ t.stkv ≠ true) ∧
    (∃ t, step { base with rom := [(0x010, 0x23FF#14)] } = .next t ∧ t.stk ≠ base.stk ∧ t.stkv ≠ base.stkv) ∧
    (∃ t, step { powered with stk := ~~~drawn.stk, stkv := true } = .next t ∧ t.stk ≠ ~~~drawn.stk ∧ t.stkv ≠ true) ∧
    (∃ t, step { base with
        stkv := true, inputs := [{ extPA := 0#8, extPB := 0#8, event := some .resLow }] } = .next t ∧ t.stkv ≠ true) ∧
    ∃ t, step { base with cfg := wdtOne, wdt := 255, stkv := true } = .next t ∧ t.stkv ≠ true :=
  ⟨⟨_, rfl, by decide, by decide⟩, ⟨_, rfl, by decide⟩, ⟨_, rfl, by decide, by decide⟩,
    ⟨_, rfl, by decide, by decide⟩, ⟨_, rfl, by decide⟩, _, rfl, by decide⟩

/-- A jump, a return, a skip, a load of PCL. -/
theorem witness_WaysToChangePc :
    (∃ t, exec (.jmp 0x3FF#11) base = .next t ∧ t.pc ≠ base.pc) ∧
    (∃ t, exec .ret { base with stkv := true } = .next t ∧ t.pc ≠ base.pc) ∧
    (∃ t, exec (.sz 0x20#7) base = .next t ∧ t.pc ≠ base.pc) ∧
    ∃ t, exec (.clrM 0x06#7) base = .next t ∧ t.pc ≠ base.pc :=
  ⟨⟨_, rfl, by decide⟩, ⟨_, rfl, by decide⟩, ⟨_, rfl, by decide⟩, _, rfl, by decide⟩

/-- A read next to the ports, and an instruction that reads no operand. -/
theorem witness_OnlyPortReadsSeeTheLevels :
    (∀ m, readOperand (.movAM 0x13#7) = some m →
      effectiveAddress m base ≠ 0x12#6 ∧ effectiveAddress m base ≠ 0x14#6) ∧
    ∀ m, readOperand (.movMemA 0x12#7) = some m →
      effectiveAddress m base ≠ 0x12#6 ∧ effectiveAddress m base ≠ 0x14#6 := by
  constructor
  · rintro m ⟨⟩; decide
  · rintro m ⟨⟩

theorem witness_OutputPins :
    base.cfg.pc0Mode = .level ∧ { Cfg.standard with pc0Mode := .carrier }.pc0Mode = .carrier ∧ base.pc0L = true ∧
    { base with pc0L := false }.pc0L = false ∧ base.halted = false ∧
    carrierDivisor Cfg.standard ∈ [2, 4, 8, 16] ∧ carrierDivisor { Cfg.standard with carM := .three } = 3 ∧
    carrierDivisor { Cfg.standard with carM := .three, carN := .n3 } ∈ [6, 12, 24] ∧
    { Cfg.standard with osc := .rc }.osc = .rc := by decide

end Sys2Proof.Tests
end

section
/-! ROM, the mask options and the open parameters through a step (`10_state.md` R21, `20_memory.md` R62): kept by every
shape of instruction, so by every instruction, and by the boundary that ends a step, resets included. -/

namespace Sys2Proof.Machine

/-! ## The clearing instructions: when they answer a next state, and which -/

theorem execClrWdt_next {s t : State} :
    execClrWdt s = .next t ↔
      (s.cfg.wdtEn = false ∧ t = s.tick 1) ∨
      (s.cfg.wdtEn = true ∧ s.cfg.clrWdtTimes = .one ∧ t = s.clearWatchdog) := by
  unfold execClrWdt
  cases s.cfg.wdtEn
  · simp [eq_comm (a := t)]
  · cases s.cfg.clrWdtTimes <;> simp [eq_comm (a := t)]

theorem execClrWdt1_next {s t : State} :
    execClrWdt1 s = .next t ↔
      (s.cfg.wdtEn = false ∧ t = s.tick 1) ∨
      (s.cfg.wdtEn = true ∧ s.cfg.clrWdtTimes = .two ∧
        t = if s.w2 then s.clearWatchdog.clearMarks else s.mark1.tick 1) := by
  unfold execClrWdt1
  cases s.cfg.wdtEn
  · simp [eq_comm (a := t)]
  · cases s.cfg.clrWdtTimes
    · simp
    · cases s.w2 <;> simp [eq_comm (a := t)]

theorem execClrWdt2_next {s t : State} :
    execClrWdt2 s = .next t ↔
      (s.cfg.wdtEn = false ∧ t = s.tick 1) ∨
      (s.cfg.wdtEn = true ∧ s.cfg.clrWdtTimes = .two ∧
        t = if s.w1 then s.clearWatchdog.clearMarks else s.mark2.tick 1) := by
  unfold execClrWdt2
  cases s.cfg.wdtEn
  · simp [eq_comm (a := t)]
  · cases s.cfg.clrWdtTimes
    · simp
    · cases s.w1 <;> simp [eq_comm (a := t)]

/-! ## ROM and configuration through the operations -/

@[simp] theorem State.skipIf_rom (s : State) (b : Bool) : (s.skipIf b).rom = s.rom := by rw [skipIf_eq]

@[simp] theorem State.skipIf_cfg (s : State) (b : Bool) : (s.skipIf b).cfg = s.cfg := by rw [skipIf_eq]

@[simp] theorem State.takeReset_rom (s : State) (kind : ResetKind) : (s.takeReset kind).rom = s.rom := by
  cases kind <;> rfl

@[simp] theorem State.takeReset_cfg (s : State) (kind : ResetKind) : (s.takeReset kind).cfg = s.cfg := by
  cases kind <;> rfl

theorem boundary_keeps_rom_cfg (s : State) : s.boundary.rom = s.rom ∧ s.boundary.cfg = s.cfg := by
  obtain ⟨u, -, hb⟩ | ⟨-, hb⟩ | ⟨-, -, hb⟩ | ⟨-, -, -, -, hb⟩ | ⟨-, -, -, hb⟩ := boundary_cases s
  all_goals simp [hb]

section Shapes

variable {s t : State} {m : MField}

theorem loadOp_keeps_rom_cfg {op : Byte → AluResult} (h : loadOp m s op = .next t) :
    t.rom = s.rom ∧ t.cfg = s.cfg := by
  obtain ⟨-, rfl⟩ := loadOp_next.mp h
  simp

theorem immediateOp_keeps_rom_cfg {r : AluResult} (h : immediateOp s r = .next t) :
    t.rom = s.rom ∧ t.cfg = s.cfg := by
  obtain rfl := immediateOp_next.mp h
  simp

theorem storeResult_keeps_rom_cfg {a : DAddr} {r : AluResult} (h : storeResult s a r = .next t) :
    t.rom = s.rom ∧ t.cfg = s.cfg := by
  obtain ⟨-, rfl⟩ := storeResult_next.mp h
  simp

theorem modifyOp_keeps_rom_cfg {op : Byte → AluResult} (h : modifyOp m s op = .next t) :
    t.rom = s.rom ∧ t.cfg = s.cfg :=
  storeResult_keeps_rom_cfg (modifyOp_next.mp h).2

theorem storeOp_keeps_rom_cfg {r : AluResult} (h : storeOp m s r = .next t) :
    t.rom = s.rom ∧ t.cfg = s.cfg :=
  storeResult_keeps_rom_cfg (storeOp_next.mp h).2

theorem testSkip_keeps_rom_cfg {p : Byte → Bool} (h : testSkip m s p = .next t) :
    t.rom = s.rom ∧ t.cfg = s.cfg := by
  obtain ⟨-, rfl⟩ := testSkip_next.mp h
  simp

theorem loadSkip_keeps_rom_cfg {f : Byte → Byte} (h : loadSkip m s f = .next t) :
    t.rom = s.rom ∧ t.cfg = s.cfg := by
  obtain ⟨-, rfl⟩ := loadSkip_next.mp h
  simp

theorem modifySkip_keeps_rom_cfg {f : Byte → Byte} (h : modifySkip m s f = .next t) :
    t.rom = s.rom ∧ t.cfg = s.cfg := by
  obtain ⟨-, -, rfl⟩ := modifySkip_next.mp h
  simp

theorem tableRead_keeps_rom_cfg {a : PAddr} (h : tableRead m s a = .next t) :
    t.rom = s.rom ∧ t.cfg = s.cfg := by
  obtain ⟨-, rfl⟩ := tableRead_next.mp h
  simp

end Shapes

/-! ## Every instruction, every step -/

/-- The cases follow the shapes `exec` sends the instructions to. -/
theorem exec_keeps_rom_cfg {i : Instr} {s t : State} (h : exec i s = .next t) : t.rom = s.rom ∧ t.cfg = s.cfg := by
  cases i with dsimp only [exec] at h
  | nop | halt =>
    obtain rfl := next_inj.mp h
    exact ⟨rfl, rfl⟩
  | clrWdt =>
    obtain ⟨-, rfl⟩ | ⟨-, -, rfl⟩ := execClrWdt_next.mp h
    all_goals simp
  | clrWdt1 =>
    obtain ⟨-, rfl⟩ | ⟨-, -, rfl⟩ := execClrWdt1_next.mp h
    · simp
    · split <;> simp
  | clrWdt2 =>
    obtain ⟨-, rfl⟩ | ⟨-, -, rfl⟩ := execClrWdt2_next.mp h
    · simp
    · split <;> simp
  | ret | reti | retAX =>
    obtain ⟨-, hk⟩ := withReturn_next.mp h
    obtain rfl := next_inj.mp hk
    simp
  | jmp | call =>
    obtain ⟨-, hk⟩ := withTarget_next.mp h
    obtain rfl := next_inj.mp hk
    simp
  | addAM | adcAM | subAM | sbcAM | andAM | orAM | xorAM | cpla | inca | deca | rra | rrca | rla | rlca
  | movAM | swapa =>
    exact loadOp_keeps_rom_cfg h
  | addAX | subAX | andAX | orAX | xorAX | movAX => exact immediateOp_keeps_rom_cfg h
  | addm | adcm | subm | sbcm | andm | orm | xorm | cpl | inc | dec | rr | rrc | rl | rlc | swap | setBit | clrBit =>
    exact modifyOp_keeps_rom_cfg h
  | movMemA | daa | clrM | setM => exact storeOp_keeps_rom_cfg h
  | sz | szBit | snzBit => exact testSkip_keeps_rom_cfg h
  | sza | siza | sdza => exact loadSkip_keeps_rom_cfg h
  | siz | sdz => exact modifySkip_keeps_rom_cfg h
  | tabrdc | tabrdl => exact tableRead_keeps_rom_cfg h

theorem step_keeps_rom_cfg {s t : State} (h : step s = .next t) : t.rom = s.rom ∧ t.cfg = s.cfg := by
  obtain ⟨-, rfl⟩ | ⟨-, i, u, -, hexec, rfl⟩ := step_next.mp h
  · exact boundary_keeps_rom_cfg s
  · obtain ⟨hrom, hcfg⟩ := exec_keeps_rom_cfg hexec
    obtain ⟨brom, bcfg⟩ := boundary_keeps_rom_cfg u
    exact ⟨brom.trans hrom, bcfg.trans hcfg⟩

/-- `PRead` sees nothing of the state but ROM (`20_memory.md` R62). -/
theorem State.pread_congr {s t : State} (h : t.rom = s.rom) (a : PAddr) : t.pread a = s.pread a := by
  rw [State.pread, State.pread, h]

/-- Settles O60: a step keeps ROM, and `PRead` depends on nothing else. -/
theorem programReadsStayTheSame : Obligations.ProgramReadsStayTheSame := by
  intro s a
  refine ⟨rfl, fun t h => ?_⟩
  obtain ⟨hrom, -⟩ := step_keeps_rom_cfg h
  exact State.pread_congr hrom a

end Sys2Proof.Machine
end

section
/-! The target of JMP and CALL (`30_encoding.md` R92): every ENC decodes JMP and CALL with bits 9 to 0 of the word for an
address, and the two instructions complete with that address in PC. -/

namespace Sys2Proof

/-! ## Decoding: the address is word bits 9 to 0 -/

theorem decodeNoOperand_targetIsWordBits {times : ClrWdtTimes} {w : Word14} {i : Instr}
    (h : decodeNoOperand times w = .ok i) : targetIsWordBits w i = true := by
  unfold decodeNoOperand at h
  split at h
  case h_2 => cases times <;> cases h <;> rfl
  all_goals cases h <;> rfl

/-- No word with bit 13 clear is a JMP or a CALL, so R92 asks nothing of it. -/
theorem decodeLow_targetIsWordBits {times : ClrWdtTimes} {w : Word14} {i : Instr}
    (h : decodeLow times w = .ok i) : targetIsWordBits w i = true := by
  unfold decodeLow at h
  split at h
  case h_1 => exact decodeNoOperand_targetIsWordBits h
  all_goals cases h <;> rfl

/-- The address field of the default ENC has the word's own bits below its eleventh. -/
theorem fieldAddr_extractLsb (w : Word14) : (fieldAddr w).extractLsb' 0 10 = w.extractLsb' 0 10 := by
  ext k hk
  simp [fieldAddr]

/-- The default ENC keeps R92. -/
theorem decode_targetIsWordBits {times : ClrWdtTimes} {w : Word14} {i : Instr}
    (h : decode times w = .ok i) : targetIsWordBits w i = true := by
  unfold decode at h
  split at h
  case h_9 => exact decodeLow_targetIsWordBits h
  all_goals
    cases h
    simp [targetIsWordBits, fieldAddr_extractLsb]

/-- Every ENC keeps R92: the default by its table, a listed one because a row that breaks R92 is no row. -/
theorem decodeUnder_targetIsWordBits {cfg : Cfg} {w : Word14} {i : Instr}
    (h : decodeUnder cfg w = .ok i) : targetIsWordBits w i = true := by
  cases henc : cfg.enc with
  | defaultTable => exact decode_targetIsWordBits (decodeUnder_defaultTable henc w ▸ h)
  | listed rows => exact (decodeListed_ok (decodeUnder_listed henc w ▸ h)).2

theorem targetIsWordBits_jmp {w : Word14} {addr : AddrField} :
    targetIsWordBits w (.jmp addr) = true ↔ addr.extractLsb' 0 10 = w.extractLsb' 0 10 :=
  decide_eq_true_iff

theorem targetIsWordBits_call {w : Word14} {addr : AddrField} :
    targetIsWordBits w (.call addr) = true ↔ addr.extractLsb' 0 10 = w.extractLsb' 0 10 :=
  decide_eq_true_iff

theorem AddrField.inRange_iff {addr : AddrField} : addr.inRange = true ↔ addr.toNat ≤ 0x3FF := decide_eq_true_iff

end Sys2Proof

namespace Sys2Proof.Machine

/-! ## Executing: PC takes the address -/

theorem exec_jmp_of_inRange {addr : AddrField} (s : State) (h : addr.inRange = true) :
    exec (.jmp addr) s = .next ((s.withPc (addr.extractLsb' 0 10)).tick 2) := by
  change execJmp addr s = _
  rw [execJmp, withTarget_next]
  exact ⟨AddrField.inRange_iff.mp h, rfl⟩

theorem exec_call_of_inRange {addr : AddrField} (s : State) (h : addr.inRange = true) :
    exec (.call addr) s = .next ((s.push.withPc (addr.extractLsb' 0 10)).tick 2) := by
  change execCall addr s = _
  rw [execCall, withTarget_next]
  exact ⟨AddrField.inRange_iff.mp h, rfl⟩

/-- Settles O5: every ENC decodes JMP and CALL with word bits 9 to 0 for an address, and both load it into PC. -/
theorem jumpTargetIsWordBits : Obligations.JumpTargetIsWordBits := by
  intro s w i addr hdecode hi hrange
  have htarget := decodeUnder_targetIsWordBits hdecode
  have hbits : ∀ k, k < 10 → (w.extractLsb' 0 10).getLsbD k = w.getLsbD k := by
    intro k hk
    simp [hk]
  obtain rfl | rfl := hi
  · refine ⟨_, exec_jmp_of_inRange s hrange, fun k hk => ?_⟩
    rw [State.tick_pc, State.withPc_pc, targetIsWordBits_jmp.mp htarget, hbits k hk]
  · refine ⟨_, exec_call_of_inRange s hrange, fun k hk => ?_⟩
    rw [State.tick_pc, State.withPc_pc, targetIsWordBits_call.mp htarget, hbits k hk]

end Sys2Proof.Machine
end

section
/-! The default ENC (`30_encoding.md` R95 to R97): decoding and encoding inverse to each other, the words left without an
instruction; and the words a listed ENC leaves without one. -/

namespace Sys2Proof

/-! ## The parts of an encoded word

A word is `k ++ m`, `k ++ x`, `k ++ addr` or `k ++ i ++ m` for the opcode bits `k` of R95; the decoder looks at its bits
13 to 10, at its bits 13 to 7, and at its fields. -/

section Parts

open BitVec

variable (m : MField) (x : Byte) (addr : AddrField) (i : BitVec 3)

@[simp] theorem fieldM_append (k : BitVec 7) : fieldM (k ++ m) = m := extractLsb'_append_eq_right

@[simp] theorem fieldX_append (k : BitVec 6) : fieldX (k ++ x) = x := extractLsb'_append_eq_right

@[simp] theorem fieldAddr_append (k : BitVec 3) : fieldAddr (k ++ addr) = addr := extractLsb'_append_eq_right

@[simp] theorem fieldM_append_append (k : BitVec 4) : fieldM (k ++ i ++ m) = m := extractLsb'_append_eq_right

@[simp] theorem fieldI_append_append (k : BitVec 4) : fieldI (k ++ i ++ m) = i :=
  (extractLsb'_append_eq_of_le (by decide)).trans extractLsb'_append_eq_right

theorem lowOpcode_append (k : BitVec 7) : extractLsb' 7 7 (k ++ m : Word14) = k := extractLsb'_append_eq_left

theorem topOpcode_append (k : BitVec 7) : extractLsb' 10 4 (k ++ m : Word14) = k.extractLsb' 3 4 :=
  extractLsb'_append_eq_of_le (by decide)

theorem topOpcode_append_immediate (k : BitVec 6) : extractLsb' 10 4 (k ++ x : Word14) = k.extractLsb' 2 4 :=
  extractLsb'_append_eq_of_le (by decide)

/-- Bits from the top bit of the field up: the opcode bits, whatever they are, then that bit of the field. -/
theorem extractLsb'_append_top {n p : Nat} (f : BitVec (p + 1)) :
    (∀ k : BitVec n, extractLsb' p (n + 1) (k ++ f) = k ++ 0#1) ∨
    (∀ k : BitVec n, extractLsb' p (n + 1) (k ++ f) = k ++ 1#1) := by
  have htop (k : BitVec n) : extractLsb' p (n + 1) (k ++ f) = k ++ f.extractLsb' p 1 := by
    ext j hj
    by_cases h : j = 0
    · simp [h, getLsbD_append, getElem_append]
    · simp [getLsbD_append, getElem_append, show ¬(p + j < p + 1) by omega, show ¬(j < 1) by omega,
        show p + j - (p + 1) = j - 1 by omega, show j - 1 < n by omega]
  simp only [htop]
  exact (eq_zero_or_eq_one (f.extractLsb' p 1)).imp (fun h _ => by rw [h]) (fun h _ => by rw [h])

/-- An immediate is one bit wider than `m`: its bit 7 stands among the bits the decoder selects the row by. -/
theorem lowOpcode_append_immediate :
    (∀ k : BitVec 6, extractLsb' 7 7 (k ++ x : Word14) = k ++ 0#1) ∨
    (∀ k : BitVec 6, extractLsb' 7 7 (k ++ x : Word14) = k ++ 1#1) :=
  extractLsb'_append_top x

theorem topOpcode_append_addr :
    (∀ k : BitVec 3, extractLsb' 10 4 (k ++ addr : Word14) = k ++ 0#1) ∨
    (∀ k : BitVec 3, extractLsb' 10 4 (k ++ addr : Word14) = k ++ 1#1) :=
  extractLsb'_append_top addr

theorem topOpcode_append_append (k : BitVec 4) : extractLsb' 10 4 (k ++ i ++ m : Word14) = k :=
  (extractLsb'_append_eq_of_le (by decide)).trans extractLsb'_append_eq_left

end Parts

/-! ## Decoding inverts encoding -/

/-- Settles O1: the decoder finds the row of the opcode bits and takes the fields back out of the word. -/
theorem decodeEncodeAgree : Obligations.DecodeEncodeAgree := by
  intro times i hsel
  cases i with
  | clrWdt | clrWdt1 =>
    obtain rfl := of_decide_eq_true hsel
    rfl
  | nop | halt | ret | reti | clrWdt2 => cases times <;> rfl
  | retAX x | subAX x | addAX x | xorAX x | orAX x | andAX x | movAX x =>
    unfold encode
    obtain h | h := lowOpcode_append_immediate x
    all_goals simp [decode, decodeLow, topOpcode_append_immediate, h, -BitVec.extractLsb'_toNat]
  | call addr | jmp addr =>
    unfold encode
    obtain h | h := topOpcode_append_addr addr
    all_goals simp [decode, h, -BitVec.extractLsb'_toNat]
  | setBit m i | clrBit m i | snzBit m i | szBit m i =>
    simp [encode, decode, topOpcode_append_append, -BitVec.extractLsb'_toNat]
  | _ m =>
    simp [encode, decode, decodeLow, topOpcode_append, lowOpcode_append, -BitVec.extractLsb'_toNat]

/-! ## Encoding inverts decoding, and the words without an instruction

The rows are numbers here: bits 13 to 10 of a word are its number divided by 2^10, bits 13 to 7 its number divided by
2^7. -/

theorem append_eq_of_toNat {n p : Nat} {k : BitVec n} {f : BitVec p} {w : BitVec (n + p)}
    (hk : w.toNat / 2 ^ p = k.toNat) (hf : w.toNat % 2 ^ p = f.toNat) : k ++ f = w := by
  apply BitVec.eq_of_toNat_eq
  rw [BitVec.toNat_append, ← Nat.shiftLeft_add_eq_or_of_lt f.isLt, Nat.shiftLeft_eq, ← hk, ← hf]
  exact Nat.div_add_mod' _ _

theorem toNat_lowOpcode (w : Word14) : (w.extractLsb' 7 7).toNat = w.toNat / 128 := by
  rw [BitVec.extractLsb'_toNat, Nat.shiftRight_eq_div_pow]
  omega

theorem toNat_topOpcode (w : Word14) : (w.extractLsb' 10 4).toNat = w.toNat / 1024 := by
  rw [BitVec.extractLsb'_toNat, Nat.shiftRight_eq_div_pow]
  omega

theorem append_fieldM {k : BitVec 7} {w : Word14} (h : w.toNat / 2 ^ 7 = k.toNat) : k ++ fieldM w = w :=
  append_eq_of_toNat h (by simp [fieldM])

theorem append_fieldX {k : BitVec 6} {w : Word14} (h : w.toNat / 2 ^ 8 = k.toNat) : k ++ fieldX w = w :=
  append_eq_of_toNat h (by simp [fieldX])

theorem append_fieldAddr {k : BitVec 3} {w : Word14} (h : w.toNat / 2 ^ 11 = k.toNat) : k ++ fieldAddr w = w :=
  append_eq_of_toNat h (by simp [fieldAddr])

theorem append_fieldI_fieldM {k : BitVec 4} {w : Word14} (h : w.toNat / 2 ^ 10 = k.toNat) :
    k ++ fieldI w ++ fieldM w = w := by
  refine append_eq_of_toNat ?_ (by simp [fieldM])
  rw [BitVec.toNat_append, ← Nat.shiftLeft_add_eq_or_of_lt (fieldI w).isLt, Nat.shiftLeft_eq, ← h, fieldI,
    BitVec.extractLsb'_toNat, Nat.shiftRight_eq_div_pow]
  omega

theorem decodeNoOperand_encode {times : ClrWdtTimes} {w : Word14} {i : Instr} (h : decodeNoOperand times w = .ok i) :
    encode i = w ∧ i.selectedBy times = true := by
  unfold decodeNoOperand at h
  split at h
  case h_2 hw =>
    split at h
    all_goals cases h; exact ⟨BitVec.eq_of_toNat_eq hw.symm, rfl⟩
  case h_7 => cases h
  all_goals cases h; exact ⟨BitVec.eq_of_toNat_eq (Eq.symm ‹_›), rfl⟩

theorem decodeLow_encode {times : ClrWdtTimes} {w : Word14} {i : Instr} (h : decodeLow times w = .ok i) :
    encode i = w ∧ i.selectedBy times = true := by
  unfold decodeLow at h
  simp only [toNat_lowOpcode] at h
  split at h
  case h_1 => exact decodeNoOperand_encode h
  case h_59 => cases h
  case h_16 | h_17 | h_18 | h_19 | h_20 | h_21 | h_22 | h_23 | h_24 | h_25 | h_26 | h_27 | h_28 | h_29 =>
    cases h; exact ⟨append_fieldX (by simp only [BitVec.toNat_ofNat]; omega), rfl⟩
  all_goals cases h; exact ⟨append_fieldM ‹_›, rfl⟩

/-- Settles O2: the opcode bits of the row and the fields read from the word put the word together again. -/
theorem encodeDecodeAgree : Obligations.EncodeDecodeAgree := by
  intro times w i h
  unfold decode at h
  simp only [toNat_topOpcode] at h
  split at h
  case h_9 => exact decodeLow_encode h
  case h_1 | h_2 | h_3 | h_4 =>
    cases h; exact ⟨append_fieldAddr (by simp only [BitVec.toNat_ofNat]; omega), rfl⟩
  all_goals cases h; exact ⟨append_fieldI_fieldM ‹_›, rfl⟩

theorem decodeNoOperand_unmapped {times : ClrWdtTimes} {w : Word14} (h : w.toNat < 128) :
    decodeNoOperand times w = .error .unmappedWord ↔ 6 ≤ w.toNat := by
  unfold decodeNoOperand
  split
  case h_2 =>
    split
    all_goals simp only [reduceCtorEq, false_iff]; omega
  case h_7 => simp only [imp_false, true_iff] at *; omega
  all_goals simp only [reduceCtorEq, false_iff]; omega

theorem decodeLow_unmapped {times : ClrWdtTimes} {w : Word14} (h : w.toNat < 0x2000) :
    decodeLow times w = .error .unmappedWord ↔
      (0x0006 ≤ w.toNat ∧ w.toNat ≤ 0x007F) ∨ (0x0780 ≤ w.toNat ∧ w.toNat ≤ 0x08FF) ∨
      (0x1C00 ≤ w.toNat ∧ w.toNat ≤ 0x1CFF) ∨ (0x1E00 ≤ w.toNat ∧ w.toNat ≤ 0x1E7F) := by
  unfold decodeLow
  simp only [toNat_lowOpcode]
  split
  case h_1 => rw [decodeNoOperand_unmapped (by omega)]; omega
  case h_59 => simp only [imp_false, true_iff] at *; omega
  all_goals simp only [reduceCtorEq, false_iff]; omega

/-- Settles O3: no word with bit 13 set is unmapped, and of the others the rows of R95 leave the four ranges. -/
theorem unmappedWordRanges : Obligations.UnmappedWordRanges := by
  intro times w
  unfold decode
  simp only [toNat_topOpcode]
  split
  case h_9 => simp only [imp_false] at *; exact decodeLow_unmapped (by omega)
  all_goals simp only [reduceCtorEq, false_iff]; omega

/-- Settles O4: each word has its row, the shared word 0001H by mask option. -/
theorem sampleWordsDecode : Obligations.SampleWordsDecode := ⟨rfl, rfl, rfl, rfl, rfl, rfl, rfl, rfl⟩

/-! ## The ENC as a parameter -/

/-- A listed ENC gives the words it does not list no instruction. -/
theorem decodeListed_of_not_mem {rows : List (Word14 × Instr)} {w : Word14} (h : ∀ i, (w, i) ∉ rows) :
    decodeListed rows w = .error .unmappedWord := by
  cases hd : decodeListed rows w with
  | ok i => exact absurd (decodeListed_ok hd).1 (h i)
  | error e => cases e; rfl

/-- The first part of R94: `encode` is an inverse of `decode` on its range, under every ENC. -/
theorem decodeUnder_of_encodeUnder {cfg : Cfg} {i : Instr} {w : Word14} (h : encodeUnder cfg i = some w) :
    decodeUnder cfg w = .ok i := by
  unfold encodeUnder at h
  split at h
  case h_1 henc =>
    split at h
    · cases h
      rw [decodeUnder_defaultTable henc]
      exact decodeEncodeAgree _ _ ‹_›
    · cases h
  case h_2 rows henc =>
    obtain ⟨row, hfind, rfl⟩ := Option.map_eq_some_iff.mp h
    rw [decodeUnder_listed henc]
    exact decodesTo_iff.mp (List.find?_some (p := fun row : Word14 × Instr => decodesTo rows row.1 i) hfind)

/-- An instruction that some word means has a word. -/
theorem encodeUnder_of_decodeUnder {cfg : Cfg} {i : Instr} {w : Word14} (h : decodeUnder cfg w = .ok i) :
    ∃ v, encodeUnder cfg i = some v := by
  unfold encodeUnder
  split
  case h_1 henc =>
    rw [decodeUnder_defaultTable henc] at h
    exact ⟨_, if_pos (encodeDecodeAgree _ _ _ h).2⟩
  case h_2 rows henc =>
    rw [decodeUnder_listed henc] at h
    have hrow : (rows.find? fun row => decodesTo rows row.1 i).isSome :=
      List.find?_isSome.mpr ⟨(w, i), (decodeListed_ok h).1, decodesTo_iff.mpr h⟩
    obtain ⟨row, hfind⟩ := Option.isSome_iff_exists.mp hrow
    exact ⟨row.1, by rw [hfind]; rfl⟩

end Sys2Proof

namespace Sys2Proof.Machine

theorem step_of_unmapped {s : State} (hrun : s.halted = false) (h : s.fetch = .error .unmappedWord) :
    step s = .refused .unmappedWord := by
  simp [step, hrun, h, refusalOfDecode]

/-- Settles O7: fetch finds no instruction, by the four ranges under the default ENC and by the missing row under a listed
one. -/
theorem unmappedWordIsRefused : Obligations.UnmappedWordIsRefused := by
  rintro s w hrun rfl
  refine ⟨fun henc hrange => step_of_unmapped hrun ?_, fun rows henc hrows => step_of_unmapped hrun ?_⟩
  · rw [State.fetch, decodeUnder_defaultTable henc]
    exact (unmappedWordRanges _ _).mpr hrange
  · rw [State.fetch, decodeUnder_listed henc]
    exact decodeListed_of_not_mem hrows

end Sys2Proof.Machine
end

section
/-! What a read and a write of data memory do, address by address (`20_memory.md` R65 to R67), and for each shape of
instruction the next state it answers, in the terms of the statements: `elapsed`, `StoredAt`. -/

namespace Sys2Proof.Machine

/-! ## Numbers of joined bit strings -/

theorem toNat_append_add {n p : Nat} (x : BitVec n) (y : BitVec p) : (x ++ y).toNat = x.toNat * 2 ^ p + y.toNat := by
  rw [BitVec.toNat_append, ← Nat.shiftLeft_add_eq_or_of_lt y.isLt, Nat.shiftLeft_eq]

/-- PC[9:8] ++ v as a number. -/
theorem toNat_page_append (pc : PAddr) (v : Byte) : (pc.extractLsb' 8 2 ++ v).toNat = pc.toNat / 256 * 256 + v.toNat := by
  rw [toNat_append_add, BitVec.extractLsb'_toNat, Nat.shiftRight_eq_div_pow]
  omega

theorem toNat_extractLsb'_zero {n : Nat} (k : Nat) (v : BitVec n) : (v.extractLsb' 0 k).toNat = v.toNat % 2 ^ k := by simp

/-! ## Time -/

theorem tick_eq (s : State) (n : Nat) : s.tick n = { s with wdt := elapsed s n } := by
  unfold State.tick elapsed
  cases s.cfg.wdtEn <;> rfl

theorem elapsed_eq (s : State) (n : Nat) : elapsed s n = if s.cfg.wdtEn then s.wdt + n else s.wdt := by
  unfold elapsed
  split <;> rfl

/-- The fetch increment in numbers; the conversion wraps at 3FFH (D3). -/
theorem advance_eq (s : State) : s.advance = { s with pc := BitVec.ofNat 10 (s.pc.toNat + 1) } := by
  rw [BitVec.ofNat_add, BitVec.ofNat_toNat, BitVec.setWidth_eq]
  rfl

theorem tick_tick (s : State) (n k : Nat) : (s.tick n).tick k = s.tick (n + k) := by
  cases h : s.cfg.wdtEn <;> simp [State.tick, h, Nat.add_assoc]

theorem tick_zero (s : State) : s.tick 0 = s := by
  unfold State.tick
  cases s.cfg.wdtEn <;> rfl

/-! ## The effective address -/

/-- Settles O42: a field other than 00H loses its top bit only, which is 0 for a field in range. -/
theorem effectiveAddressOfField : Obligations.EffectiveAddressOfField := by
  intro m s hm
  unfold effectiveAddress
  by_cases h : m = 0#7
  · simp [h]
  · have hne : m.toNat ≠ 0 := fun h0 => h (BitVec.eq_of_toNat_eq h0)
    rw [if_neg h, if_neg hne, toNat_extractLsb'_zero]
    omega

/-! ## Reads -/

theorem locOf_eq_reserved {a : DAddr} (h : (0x02 ≤ a.toNat ∧ a.toNat ≤ 0x04) ∨ a.toNat = 0x09 ∨
    (0x0B ≤ a.toNat ∧ a.toNat ≤ 0x11) ∨ a.toNat = 0x13 ∨ a.toNat = 0x15 ∨ (0x17 ≤ a.toNat ∧ a.toNat ≤ 0x1F)) :
    locOf a = .reserved := by
  revert a
  decide

/-- Settles O43: each address names its location, and the location is read as R66 says. -/
theorem dataReadMap : Obligations.DataReadMap := by
  intro s a
  have at_address {k : DAddr} (h : a.toNat = k.toNat) : a = k := BitVec.eq_of_toNat_eq h
  refine ⟨fun h => ?_, fun h => ?_, fun h => ?_, fun h => ?_, fun h => ?_, fun h => ?_, fun h => ?_, fun h k hk => ?_,
    fun h k hk => ?_, fun h => ?_, fun h => ?_, fun h => ?_⟩
  · obtain rfl := at_address (k := 0x00#6) h
    rfl
  · obtain rfl := at_address (k := 0x01#6) h
    exact toNat_append_add 0b11#2 s.mp
  · obtain rfl := at_address (k := 0x05#6) h
    rfl
  · obtain rfl := at_address (k := 0x06#6) h
    exact toNat_extractLsb'_zero 8 s.pc
  · obtain rfl := at_address (k := 0x07#6) h
    rfl
  · obtain rfl := at_address (k := 0x08#6) h
    exact (toNat_append_add 0b00#2 s.tblh).trans (Nat.zero_add _)
  · obtain rfl := at_address (k := 0x0A#6) h
    change s.status.toNat = _
    simp only [State.status, toNat_append_add, BitVec.toNat_ofBool, BitVec.toNat_ofNat]
    omega
  · obtain rfl := at_address (k := 0x12#6) h
    change (s.pinA s.extPA).getLsbD k = _
    cases hp : s.cfg.portLowWins <;> simp [State.pinA, hp, Bool.and_comm]
  · obtain rfl := at_address (k := 0x14#6) h
    change (s.pinB s.extPB).getLsbD k = _
    have hpb : (0b111111#6 ++ s.pbL : BitVec (6 + 2)).getLsbD k = (decide (2 ≤ k) || s.pbL.getLsbD k) := by
      rw [BitVec.getLsbD_append]
      interval_cases k <;> simp
    cases hp : s.cfg.portLowWins <;> simp [State.pinB, hp, hpb, Bool.and_comm]
  · obtain rfl := at_address (k := 0x16#6) h
    exact (toNat_append_add 0b0000000#7 _).trans (by simp)
  · rw [dread, (locOf_eq_ram a).mpr h]
  · rw [dread, locOf_eq_reserved h]
    rfl

/-! ## Writes -/

/-- A write and the cycles of its instruction: the one case split over the address map. -/
theorem dwrite_tick_storedAt (n : Nat) (s : State) (a : DAddr) (v : Byte) : StoredAt n s ((dwrite s a v).tick n) a v := by
  have hcell (b : Nat) : (b = a.toNat ∧ 0x20 ≤ b) ↔ b = a.toNat ∧ locOf a = .ram := by
    rw [locOf_eq_ram]
    exact and_congr_right fun h => by rw [h]
  unfold StoredAt dwrite
  simp only [hcell, ← locOf_eq_acc, ← locOf_eq_mp, ← locOf_eq_pcl, ← locOf_eq_tblp, ← locOf_eq_status, ← locOf_eq_portA,
    ← locOf_eq_portB, ← locOf_eq_portC, elapsed_eq]

  cases locOf a with
  | pcl => cases hen : s.cfg.wdtEn <;> simp [State.cell, toNat_page_append, hen, Nat.add_assoc, Nat.add_comm 1]
  | ram => cases hen : s.cfg.wdtEn <;> simp [State.cell, Memory.read_write, hen]
  | _ => cases hen : s.cfg.wdtEn <;> simp [State.cell, hen]

/-- Settles O44: a write by itself takes no cycle, so the count of the lemma is 0. -/
theorem dataWriteMap : Obligations.DataWriteMap := by
  intro s a v
  simpa only [tick_zero] using dwrite_tick_storedAt 0 s a v

/-- A skip after a write that does not load PC is the write in the state that has skipped. -/
theorem skip_dwrite_tick_storedAt (n : Nat) (s : State) {a : DAddr} (ha : a ≠ 0x06#6) (v : Byte) :
    StoredAt (n + 1) s.advance ((dwrite s a v).skip.tick n) a v := by
  have hcomm : (dwrite s a v).skip.tick n = (dwrite s.advance a v).tick (n + 1) := by
    have hpcl : locOf a ≠ .pcl := fun h => ha ((locOf_eq_pcl a).mp h)
    rw [State.skip, tick_tick, Nat.add_comm 1]
    congr 1
    unfold dwrite
    cases hl : locOf a with
    | pcl => contradiction
    | _ => rfl
  rw [hcomm]
  exact dwrite_tick_storedAt (n + 1) s.advance a v

/-- Two states with the same C, AC, Z and OV. -/
abbrev SameFlags (t u : State) : Prop :=
  t.flagC = u.flagC ∧ t.flagAC = u.flagAC ∧ t.flagZ = u.flagZ ∧ t.flagOV = u.flagOV

theorem StoredAt.sameFlags {n : Nat} {s t : State} {a : DAddr} {v : Byte} (h : StoredAt n s t a v) (ha : a ≠ 0x0A#6) :
    SameFlags t s := by
  obtain ⟨-, -, -, -, hC, hAC, hZ, hOV, -⟩ := h
  simp only [if_neg ha] at hC hAC hZ hOV
  exact ⟨hC, hAC, hZ, hOV⟩

/-! ## The next state of each shape of instruction -/

section Shapes

variable {m : MField} {s : State}

theorem withOperand_of_le (hm : m.toNat ≤ 0x3F) (k : DAddr → Result) : withOperand m s k = k (effectiveAddress m s) :=
  if_pos hm

theorem loadOp_eq (hm : m.toNat ≤ 0x3F) (op : Byte → AluResult) :
    loadOp m s op = .next
      { (s.withFlags (op (dread s (effectiveAddress m s))).flags) with
        acc := (op (dread s (effectiveAddress m s))).value, wdt := elapsed s 1 } := by
  rw [loadOp, withOperand_of_le hm, tick_eq]
  rfl

theorem immediateOp_eq (r : AluResult) :
    immediateOp s r = .next { (s.withFlags r.flags) with acc := r.value, wdt := elapsed s 1 } := by
  rw [immediateOp, tick_eq]
  rfl

theorem storeResult_eq {a : DAddr} {r : AluResult} (h : r.flags.any = false ∨ a ≠ 0x0A#6) :
    storeResult s a r = .next ((dwrite (s.withFlags r.flags) a r.value).tick 1) := by
  rw [storeResult, if_neg]
  obtain h | h := h <;> simp [h]

/-- The result of a read-modify-write stands at the effective address. -/
theorem modifyOp_storedAt (hm : m.toNat ≤ 0x3F) {op : Byte → AluResult} {r : AluResult}
    (hr : op (dread s (effectiveAddress m s)) = r) (h : r.flags.any = false ∨ effectiveAddress m s ≠ 0x0A#6) :
    ∃ t, modifyOp m s op = .next t ∧ StoredAt 1 (s.withFlags r.flags) t (effectiveAddress m s) r.value := by
  rw [modifyOp, withOperand_of_le hm, hr, storeResult_eq h]
  exact ⟨_, rfl, dwrite_tick_storedAt 1 _ _ _⟩

theorem storeOp_storedAt (hm : m.toNat ≤ 0x3F) {r : AluResult}
    (h : r.flags.any = false ∨ effectiveAddress m s ≠ 0x0A#6) :
    ∃ t, storeOp m s r = .next t ∧ StoredAt 1 (s.withFlags r.flags) t (effectiveAddress m s) r.value := by
  rw [storeOp, withOperand_of_le hm, storeResult_eq h]
  exact ⟨_, rfl, dwrite_tick_storedAt 1 _ _ _⟩

theorem skipIf_tick_eq (s : State) (b : Bool) :
    (s.skipIf b).tick 1 =
      { s with
        pc := BitVec.ofNat 10 (s.pc.toNat + if b = true then 1 else 0)
        wdt := elapsed s (if b = true then 2 else 1) } := by
  cases b
  · rw [tick_eq]
    simp [State.skipIf]
  · rw [State.skipIf, if_pos rfl, State.skip, tick_tick, tick_eq, advance_eq]
    rfl

theorem testSkip_eq (hm : m.toNat ≤ 0x3F) (p : Byte → Bool) :
    testSkip m s p = .next
      { s with
        pc := BitVec.ofNat 10 (s.pc.toNat + if p (dread s (effectiveAddress m s)) = true then 1 else 0)
        wdt := elapsed s (if p (dread s (effectiveAddress m s)) = true then 2 else 1) } := by
  rw [testSkip, withOperand_of_le hm, skipIf_tick_eq]

theorem loadSkip_eq (hm : m.toNat ≤ 0x3F) {f : Byte → Byte} {v : Byte} (hv : f (dread s (effectiveAddress m s)) = v) :
    loadSkip m s f = .next
      { s with
        acc := v
        pc := BitVec.ofNat 10 (s.pc.toNat + if v = 0#8 then 1 else 0)
        wdt := elapsed s (if v = 0#8 then 2 else 1) } := by
  rw [loadSkip, withOperand_of_le hm, hv, skipIf_tick_eq]
  simp only [decide_eq_true_eq]
  rfl

theorem modifySkip_storedAt (hm : m.toNat ≤ 0x3F) {f : Byte → Byte} {v : Byte}
    (hv : f (dread s (effectiveAddress m s)) = v) (h : ¬(effectiveAddress m s = 0x06#6 ∧ v = 0#8)) :
    ∃ t, modifySkip m s f = .next t ∧
      StoredAt (if v = 0#8 then 2 else 1)
        { s with pc := BitVec.ofNat 10 (s.pc.toNat + if v = 0#8 then 1 else 0) } t (effectiveAddress m s) v := by
  rw [modifySkip, withOperand_of_le hm, hv, if_neg (by simpa using h)]
  refine ⟨_, rfl, ?_⟩
  by_cases hz : v = 0#8
  · have ha : effectiveAddress m s ≠ 0x06#6 := fun ha => h ⟨ha, hz⟩
    simpa only [hz, State.skipIf, decide_true, if_true, advance_eq] using skip_dwrite_tick_storedAt 1 s ha v
  · simpa [hz, State.skipIf] using dwrite_tick_storedAt 1 s (effectiveAddress m s) v

theorem tableRead_storedAt (hm : m.toNat ≤ 0x3F) (x : PAddr) :
    ∃ t, tableRead m s x = .next t ∧
      StoredAt 2 (s.withTblh ((s.pread x).extractLsb' 8 6)) t (effectiveAddress m s) ((s.pread x).extractLsb' 0 8) := by
  rw [tableRead, withOperand_of_le hm]
  exact ⟨_, rfl, dwrite_tick_storedAt 2 _ _ _⟩

end Shapes

end Sys2Proof.Machine
end

section
/-! The adder and the arithmetic instructions (`40_arithmetic.md`): sums, differences and the decimal adjust as numbers. -/

namespace Sys2Proof.Machine

/-! ## The adder -/

theorem toInt_byte (v : Byte) : v.toInt = if v.toNat < 128 then (v.toNat : Int) else v.toNat - 256 := by
  rw [BitVec.toInt_eq_toNat_cond]
  split <;> split <;> omega

/-- Settles O16: the carries into bit 4, into bit 7 and out of bit 7 are read off the partial sums, and signed overflow is
a carry into bit 7 without one out of it, or the reverse. -/
theorem adderGivesSumAndFlags : Obligations.AdderGivesSumAndFlags := by
  intro ovSymmetric a b cin s
  have ha := a.isLt
  have hb := b.isLt
  have hc : cin.toNat ≤ 1 := Bool.toNat_le cin
  have hzero (v : Byte) : v = 0#8 ↔ v.toNat = 0 := BitVec.toNat_inj.symm
  refine ⟨by simp [add8], ?_, ?_, ?_, ?_⟩
  · simp only [add8, State.withFlags_flagC, Option.getD_some, decide_eq_true_eq]
    omega
  · simp only [add8, State.withFlags_flagAC, Option.getD_some, decide_eq_true_eq]
    omega
  · simp only [add8, State.withFlags_flagZ, Option.getD_some, decide_eq_true_eq, hzero]
  · simp only [add8, State.withFlags_flagOV, Option.getD_some]
    cases ovSymmetric
    · simp only [Bool.false_and, Bool.or_false, Bool.and_eq_true, Bool.not_eq_true', decide_eq_true_eq,
        decide_eq_false_iff_not, Bool.false_eq_true, if_false]
      omega
    · simp only [Bool.true_and, Bool.or_eq_true, Bool.and_eq_true, Bool.not_eq_true', decide_eq_true_eq,
        decide_eq_false_iff_not, if_true, toInt_byte]
      split <;> split <;> omega

/-- A sum with the one's complement of `b` is the difference to `b`. -/
theorem DifferenceOf.of_sumOf_not {ovSymmetric : Bool} {a b : Byte} {cin : Bool} {r : Byte} {t : State}
    (h : SumOf ovSymmetric a (~~~b) cin r t) : DifferenceOf ovSymmetric a b (!cin) r t := by
  obtain ⟨hr, hC, hAC, hZ, hOV⟩ := h
  have ha := a.isLt
  have hb := b.isLt
  have hnot : (~~~b).toNat = 255 - b.toNat := BitVec.toNat_not
  have hborrow : (!cin).toNat = 1 - cin.toNat := by cases cin <;> rfl
  have hc : cin.toNat ≤ 1 := Bool.toNat_le cin
  simp only [hnot] at hr hC hAC hOV
  refine ⟨?_, ?_, ?_, hZ, ?_⟩
  · rw [hborrow]; omega
  · rw [hC, hborrow]; omega
  · rw [hAC, hborrow]; omega
  · rw [hOV, hborrow]
    cases ovSymmetric
    · simp only [Bool.false_eq_true, if_false]; omega
    · simp only [if_true, toInt_byte, hnot]
      split <;> split <;> omega

/-- Settles O17: the adder adds, and adding the one's complement subtracts. -/
theorem adderSubtracts : Obligations.AdderSubtracts := fun ovSymmetric a b cin s =>
  .of_sumOf_not (adderGivesSumAndFlags ovSymmetric a (~~~b) cin s)

/-! ## The two statements about flags see nothing of a state but its flags -/

theorem SumOf.congr {ovSymmetric : Bool} {a b : Byte} {cin : Bool} {r : Byte} {t u : State}
    (h : SumOf ovSymmetric a b cin r u) (hf : SameFlags t u) : SumOf ovSymmetric a b cin r t := by
  obtain ⟨hC, hAC, hZ, hOV⟩ := hf
  unfold SumOf
  rw [hC, hAC, hZ, hOV]
  exact h

theorem add8_sumOf (ovSymmetric : Bool) (a b : Byte) (cin : Bool) {s t : State}
    (hf : SameFlags t (s.withFlags (add8 ovSymmetric a b cin).flags)) :
    SumOf ovSymmetric a b cin (add8 ovSymmetric a b cin).value t :=
  (adderGivesSumAndFlags ovSymmetric a b cin s).congr hf

/-! ## The sum or difference in ACC -/

section ToAcc

variable {m : MField} {s : State}

theorem loadOp_onlyAccAndFlags (hm : m.toNat ≤ 0x3F) {op : Byte → AluResult} {r : AluResult}
    (hr : op (dread s (effectiveAddress m s)) = r) :
    ∃ t, loadOp m s op = .next t ∧ OnlyAccAndFlags 1 s t ∧ t.acc = r.value ∧ SameFlags t (s.withFlags r.flags) := by
  rw [loadOp_eq hm, hr]
  exact ⟨_, rfl, rfl, rfl, rfl, rfl, rfl, rfl⟩

theorem immediateOp_onlyAccAndFlags (r : AluResult) :
    ∃ t, immediateOp s r = .next t ∧ OnlyAccAndFlags 1 s t ∧ t.acc = r.value ∧ SameFlags t (s.withFlags r.flags) := by
  rw [immediateOp_eq]
  exact ⟨_, rfl, rfl, rfl, rfl, rfl, rfl, rfl⟩

theorem loadOp_add8 (hm : m.toNat ≤ 0x3F) (f : Byte → Byte) (cin : Bool) :
    ∃ t, loadOp m s (fun b => add8 s.cfg.ovSymmetric s.acc (f b) cin) = .next t ∧ OnlyAccAndFlags 1 s t ∧
      SumOf s.cfg.ovSymmetric s.acc (f (dread s (effectiveAddress m s))) cin t.acc t := by
  obtain ⟨t, ht, honly, hacc, hf⟩ :=
    loadOp_onlyAccAndFlags (s := s) hm (op := fun b => add8 s.cfg.ovSymmetric s.acc (f b) cin) rfl
  exact ⟨t, ht, honly, hacc ▸ add8_sumOf _ _ _ _ hf⟩

theorem immediateOp_add8 (b : Byte) (cin : Bool) :
    ∃ t, immediateOp s (add8 s.cfg.ovSymmetric s.acc b cin) = .next t ∧ OnlyAccAndFlags 1 s t ∧
      SumOf s.cfg.ovSymmetric s.acc b cin t.acc t := by
  obtain ⟨t, ht, honly, hacc, hf⟩ := immediateOp_onlyAccAndFlags (s := s) (add8 s.cfg.ovSymmetric s.acc b cin)
  exact ⟨t, ht, honly, hacc ▸ add8_sumOf _ _ _ _ hf⟩

end ToAcc

/-- Settles O18: each is the adder in its shape, the operand as it is. -/
theorem additionsToAcc : Obligations.AdditionsToAcc := fun _ x s =>
  ⟨fun hm => ⟨loadOp_add8 hm id false, loadOp_add8 hm id s.flagC⟩, immediateOp_add8 x false⟩

/-- Settles O20: each adds the one's complement of its operand. -/
theorem subtractionsToAcc : Obligations.SubtractionsToAcc := by
  intro m x s
  refine ⟨fun hm => ⟨?_, ?_⟩, ?_⟩
  · obtain ⟨t, ht, honly, hsum⟩ := loadOp_add8 (s := s) hm (~~~ ·) true
    exact ⟨t, ht, honly, .of_sumOf_not hsum⟩
  · obtain ⟨t, ht, honly, hsum⟩ := loadOp_add8 (s := s) hm (~~~ ·) s.flagC
    exact ⟨t, ht, honly, .of_sumOf_not hsum⟩
  · obtain ⟨t, ht, honly, hsum⟩ := immediateOp_add8 (s := s) (~~~x) true
    exact ⟨t, ht, honly, .of_sumOf_not hsum⟩

/-! ## The sum or difference in memory -/

/-- The flags of the state after a store elsewhere than at STATUS are those the instruction wrote. -/
theorem StoredAt.with_final_flags {n : Nat} {s t : State} {f : FlagWrites} {a : DAddr} {v : Byte}
    (h : StoredAt n (s.withFlags f) t a v) (ha : a ≠ 0x0A#6) :
    StoredAt n { s with flagC := t.flagC, flagAC := t.flagAC, flagZ := t.flagZ, flagOV := t.flagOV } t a v := by
  obtain ⟨hC, hAC, hZ, hOV⟩ := h.sameFlags ha
  rw [hC, hAC, hZ, hOV]
  exact h

theorem modifyOp_add8 {m : MField} {s : State} (hm : m.toNat ≤ 0x3F) (ha : effectiveAddress m s ≠ 0x0A#6) (f : Byte → Byte)
    (cin : Bool) :
    ∃ t r, modifyOp m s (fun b => add8 s.cfg.ovSymmetric s.acc (f b) cin) = .next t ∧
      SumOf s.cfg.ovSymmetric s.acc (f (dread s (effectiveAddress m s))) cin r t ∧
      StoredAt 1 { s with flagC := t.flagC, flagAC := t.flagAC, flagZ := t.flagZ, flagOV := t.flagOV } t
        (effectiveAddress m s) r := by
  obtain ⟨t, ht, hst⟩ := modifyOp_storedAt hm (op := fun b => add8 s.cfg.ovSymmetric s.acc (f b) cin) rfl (.inr ha)
  exact ⟨t, _, ht, add8_sumOf _ _ _ _ (hst.sameFlags ha), hst.with_final_flags ha⟩

/-- Settles O19: each is the adder in its shape, the operand as it is. -/
theorem additionsToMemory : Obligations.AdditionsToMemory := fun _ s hm ha =>
  ⟨modifyOp_add8 hm ha id false, modifyOp_add8 hm ha id s.flagC⟩

/-- Settles O21: each adds the one's complement of its operand. -/
theorem subtractionsToMemory : Obligations.SubtractionsToMemory := by
  intro m s hm ha
  constructor
  · obtain ⟨t, r, ht, hsum, hst⟩ := modifyOp_add8 hm ha (~~~ ·) true
    exact ⟨t, r, ht, .of_sumOf_not hsum, hst⟩
  · obtain ⟨t, r, ht, hsum, hst⟩ := modifyOp_add8 hm ha (~~~ ·) s.flagC
    exact ⟨t, r, ht, .of_sumOf_not hsum, hst⟩

/-! ## The decimal adjust -/

/-- R121 in numbers: the two nibbles of the adjusted byte, and C, which the adjust can only set. `low`, `high` and `carry`
are the conditions of the rule. -/
theorem decimalAdjust_spec (acc : Byte) (ac c : Bool) {low high : Bool} {carry : Nat}
    (hlow : low = true ↔ 9 < acc.toNat % 16 ∨ ac = true)
    (hcarry : carry = if low = true ∧ ac = false then 1 else 0)
    (hhigh : high = true ↔ 9 < acc.toNat / 16 + carry ∨ c = true) :
    ∃ v, decimalAdjust acc ac c = carryFlag v (high || c) ∧
      v.toNat % 16 = (acc.toNat % 16 + if low then 6 else 0) % 16 ∧
      v.toNat / 16 = (acc.toNat / 16 + carry + if high then 6 else 0) % 16 := by
  have hacc := acc.isLt
  have hlow' : (decide (acc.toNat % 16 > 9) || ac) = low := by
    rw [Bool.eq_iff_iff, hlow]; simp
  have hcarry' : (if low then 1 - ac.toNat else 0) = carry := by
    rw [hcarry]; cases low <;> cases ac <;> rfl
  have hhigh' : (decide (acc.toNat / 16 + carry > 9) || c) = high := by
    rw [Bool.eq_iff_iff, hhigh]; simp
  refine ⟨BitVec.ofNat 8 (16 * ((acc.toNat / 16 + carry + if high then 6 else 0) % 16) +
    (acc.toNat % 16 + if low then 6 else 0) % 16), ?_, ?_, ?_⟩
  · have hsum : acc.toNat / 16 + 6 + carry = acc.toNat / 16 + carry + 6 := by omega
    have hnibble : acc.toNat % 16 % 16 = acc.toNat % 16 := Nat.mod_mod _ _
    simp only [decimalAdjust, hlow', hcarry', hhigh', hsum]
    cases low <;> cases high <;> simp [hnibble]
  · rw [BitVec.toNat_ofNat]; omega
  · rw [BitVec.toNat_ofNat]; omega

/-- Settles O22: R121 in numbers, stored by the shape of DAA. -/
theorem daaStoresAdjustedAcc : Obligations.DaaStoresAdjustedAcc := by
  intro m s hm ha low high carry hlow hcarry hhigh
  obtain ⟨v, hv, hvlow, hvhigh⟩ := decimalAdjust_spec s.acc s.flagAC s.flagC hlow hcarry hhigh
  obtain ⟨t, ht, hst⟩ := storeOp_storedAt (s := s) hm (r := carryFlag v (high || s.flagC)) (.inr ha)
  exact ⟨t, v, (congrArg (storeOp m s) hv).trans ht, hvlow, hvhigh, hst⟩

/-- One decimal digit of an addition, `x` the sum of two digits and a carry: adjusting its low four bits by 6 where `x` is
ten or more leaves the digit `x` modulo ten. -/
theorem adjusted_digit {x d : Nat} {adjust : Bool} (hx : x ≤ 19) (hadjust : adjust = true ↔ 10 ≤ x)
    (hd : d = (x % 16 + if adjust then 6 else 0) % 16) : d + 10 * adjust.toNat = x ∧ d ≤ 9 := by
  cases adjust
  · have hlt : x < 10 := by simpa using hadjust
    simp only [Bool.false_eq_true, if_false, Bool.toNat_false] at hd ⊢
    omega
  · have hle : 10 ≤ x := hadjust.mp rfl
    simp only [if_true, Bool.toNat_true] at hd ⊢
    omega

/-- The decimal adjust after a binary addition of decimal digits, on numbers: `a`, `b` the two bytes, `sum` their binary sum
and `r` the adjusted byte. -/
theorem bcd_of_adjusted_sum {a b cin sum r carry : Nat} {c ac low high : Bool}
    (ha : a % 16 ≤ 9 ∧ a / 16 ≤ 9) (hb : b % 16 ≤ 9 ∧ b / 16 ≤ 9) (hcin : cin ≤ 1)
    (hsum : sum = (a + b + cin) % 256) (hc : c = true ↔ 256 ≤ a + b + cin) (hac : ac = true ↔ 16 ≤ a % 16 + b % 16 + cin)
    (hlow : low = true ↔ 9 < sum % 16 ∨ ac = true)
    (hcarry : carry = if low = true ∧ ac = false then 1 else 0)
    (hhigh : high = true ↔ 9 < sum / 16 + carry ∨ c = true)
    (hrlow : r % 16 = (sum % 16 + if low then 6 else 0) % 16)
    (hrhigh : r / 16 = (sum / 16 + carry + if high then 6 else 0) % 16) :
    (r % 16 ≤ 9 ∧ r / 16 ≤ 9) ∧
      10 * (r / 16) + r % 16 = (10 * (a / 16) + a % 16 + (10 * (b / 16) + b % 16) + cin) % 100 ∧
      ((high || c) = true ↔ 100 ≤ 10 * (a / 16) + a % 16 + (10 * (b / 16) + b % 16) + cin) := by
  have hlow10 : low = true ↔ 10 ≤ a % 16 + b % 16 + cin := by rw [hlow, hac]; omega
  have hlowsum : sum % 16 = (a % 16 + b % 16 + cin) % 16 := by omega
  obtain ⟨hdlow, hrlow9⟩ := adjusted_digit (by omega) hlow10 (hlowsum ▸ hrlow)
  -- The carry out of the low decimal digit is that of the low nibble, or the rule's internal carry.
  have hdecimal : (a % 16 + b % 16 + cin) / 16 + carry = low.toNat := by
    rw [hcarry]
    cases low <;> cases ac <;> simp at hac hlow10 ⊢ <;> omega
  have hhighsum : (sum / 16 + carry) % 16 = (a / 16 + b / 16 + low.toNat) % 16 := by omega
  have hlow1 := Bool.toNat_le low
  have hhigh10 : high = true ↔ 10 ≤ a / 16 + b / 16 + low.toNat := by rw [hhigh, hc]; omega
  have hrhigh' : r / 16 = ((a / 16 + b / 16 + low.toNat) % 16 + if high then 6 else 0) % 16 := by
    rw [← hhighsum, Nat.mod_add_mod]; exact hrhigh
  obtain ⟨hdhigh, hrhigh9⟩ := adjusted_digit (by omega) hhigh10 hrhigh'
  have hchigh : (high || c) = high := by
    cases c
    · exact Bool.or_false high
    · rw [hhigh.mpr (.inr rfl)]; rfl
  refine ⟨⟨hrlow9, hrhigh9⟩, ?_, ?_⟩
  · have hhigh1 := Bool.toNat_le high
    omega
  · rw [hchigh, hhigh10]; omega

/-- Settles O23: the binary sum in the first step, its decimal adjust in the second. -/
theorem daaCorrectsDecimalSum : Obligations.DaaCorrectsDecimalSum := by
  intro m s hm hacc hmem
  obtain ⟨t, ht, -, hsum, hC, hAC, -, -⟩ := loadOp_add8 (s := s) hm id s.flagC
  have hea : effectiveAddress 0x05#7 t = 0x05#6 := rfl
  obtain ⟨low, hlow⟩ : ∃ low : Bool, low = true ↔ 9 < t.acc.toNat % 16 ∨ t.flagAC = true :=
    ⟨decide _, decide_eq_true_iff⟩
  obtain ⟨high, hhigh⟩ : ∃ high : Bool,
      high = true ↔ 9 < t.acc.toNat / 16 + (if low = true ∧ t.flagAC = false then 1 else 0) ∨ t.flagC = true :=
    ⟨decide _, decide_eq_true_iff⟩
  obtain ⟨u, r, hu, hrlow, hrhigh, hst⟩ :=
    daaStoresAdjustedAcc 0x05#7 t (by decide) (by rw [hea]; decide) low high _ hlow rfl hhigh
  obtain ⟨huacc, -, -, -, huC, -⟩ := hst
  simp only [hea, if_true] at huacc
  simp only [hea, show ¬((0x05#6 : DAddr) = 0x0A#6) by decide, if_false] at huC
  obtain ⟨hbcd, hval, hcarry⟩ := bcd_of_adjusted_sum hacc hmem (Bool.toNat_le _) hsum hC hAC hlow rfl hhigh
    hrlow hrhigh
  refine ⟨t, u, ht, hu, ?_, ?_, ?_⟩
  · rw [huacc]; exact hbcd
  · rw [huacc]; exact hval
  · rw [huC]; exact hcarry

end Sys2Proof.Machine
end

section
/-! Logic, increment, rotate, move, bit and whole-byte instructions (files 41 to 45 and 48): the byte each computes, then
the statement of each group by the shape of its members. -/

namespace Sys2Proof.Machine

/-! ## The bytes computed -/

/-- A bit of two joined bit strings, where the width of the whole is given as a number. -/
theorem getLsbD_append_of_eq {n p w : Nat} (h : n + p = w) (x : BitVec n) (y : BitVec p) (k : Nat) :
    ((x ++ y).cast h).getLsbD k = if k < p then y.getLsbD k else x.getLsbD (k - p) := by
  rw [BitVec.getLsbD_cast, BitVec.getLsbD_append]

theorem toNat_inc8 (v : Byte) : (inc8 v).toNat = (v.toNat + 1) % 256 := BitVec.toNat_add v 1#8

theorem toNat_dec8 (v : Byte) : (dec8 v).toNat = (v.toNat + 255) % 256 := by
  rw [dec8, BitVec.toNat_sub, Nat.add_comm]
  rfl

theorem toNat_swapNibbles (v : Byte) : (swapNibbles v).toNat = v.toNat % 16 * 16 + v.toNat / 16 := by
  have hv := v.isLt
  refine (toNat_append_add _ _).trans ?_
  rw [toNat_extractLsb'_zero, BitVec.extractLsb'_toNat, Nat.shiftRight_eq_div_pow]
  omega

theorem getLsbD_rotateRight (v : Byte) {k : Nat} (hk : k < 8) :
    (rotateRight v).getLsbD k = v.getLsbD ((k + 1) % 8) := by
  refine (getLsbD_append_of_eq rfl _ _ k).trans ?_
  interval_cases k <;> simp

theorem getLsbD_rotateLeft (v : Byte) {k : Nat} (hk : k < 8) :
    (rotateLeft v).getLsbD k = v.getLsbD ((k + 7) % 8) := by
  refine (getLsbD_append_of_eq rfl _ _ k).trans ?_
  interval_cases k <;> simp

/-- C and operand as the nine bits that rotate. -/
theorem getLsbD_carry_append (c : Bool) (v : Byte) (k : Nat) :
    (BitVec.ofBool c ++ v : BitVec 9).getLsbD k = if k < 8 then v.getLsbD k else (BitVec.ofBool c).getLsbD (k - 8) :=
  getLsbD_append_of_eq rfl _ _ k

theorem getLsbD_rotateRightCarry (c : Bool) (v : Byte) {k : Nat} (hk : k < 8) :
    (rotateRightCarry c v).value.getLsbD k = (BitVec.ofBool c ++ v : BitVec 9).getLsbD ((k + 1) % 9) := by
  rw [getLsbD_carry_append]
  refine (getLsbD_append_of_eq rfl _ _ k).trans ?_
  interval_cases k <;> simp

theorem getLsbD_rotateLeftCarry (c : Bool) (v : Byte) {k : Nat} (hk : k < 8) :
    (rotateLeftCarry c v).value.getLsbD k = (BitVec.ofBool c ++ v : BitVec 9).getLsbD ((k + 8) % 9) := by
  rw [getLsbD_carry_append]
  refine (getLsbD_append_of_eq rfl _ _ k).trans ?_
  interval_cases k <;> simp

/-- The byte with bit `i` alone. -/
theorem getLsbD_one_shiftLeft (i : BitVec 3) {k : Nat} (hk : k < 8) :
    (1#8 <<< i.toNat).getLsbD k = decide (k = i.toNat) := by
  rw [BitVec.getLsbD_shiftLeft, BitVec.getLsbD_one, Bool.eq_iff_iff]
  simp only [Bool.and_eq_true, Bool.not_eq_true', decide_eq_true_eq, decide_eq_false_iff_not]
  omega

theorem getLsbD_clearBit (i : BitVec 3) (v : Byte) {k : Nat} (hk : k < 8) :
    (clearBit i v).getLsbD k = if k = i.toNat then false else v.getLsbD k := by
  rw [clearBit, BitVec.getLsbD_and, BitVec.getLsbD_not, getLsbD_one_shiftLeft i hk]
  split <;> simp_all

theorem getLsbD_setBit (i : BitVec 3) (v : Byte) {k : Nat} (hk : k < 8) :
    (setBit i v).getLsbD k = if k = i.toNat then true else v.getLsbD k := by
  rw [setBit, BitVec.getLsbD_or, getLsbD_one_shiftLeft i hk]
  split <;> simp_all

/-! ## The shapes by the flags they write -/

section Shapes

variable {m : MField} {s : State}

theorem loadOp_zeroFlag (hm : m.toNat ≤ 0x3F) (f : Byte → Byte) :
    ∃ t, loadOp m s (fun b => zeroFlag (f b)) = .next t ∧ t.acc = f (dread s (effectiveAddress m s)) ∧
      t = { s with acc := t.acc, flagZ := decide (t.acc = 0#8), wdt := elapsed s 1 } := by
  rw [loadOp_eq hm]
  exact ⟨_, rfl, rfl, rfl⟩

theorem immediateOp_zeroFlag (v : Byte) :
    ∃ t, immediateOp s (zeroFlag v) = .next t ∧ t.acc = v ∧
      t = { s with acc := t.acc, flagZ := decide (t.acc = 0#8), wdt := elapsed s 1 } := by
  rw [immediateOp_eq]
  exact ⟨_, rfl, rfl, rfl⟩

theorem modifyOp_zeroFlag (hm : m.toNat ≤ 0x3F) (ha : effectiveAddress m s ≠ 0x0A#6) (f : Byte → Byte) :
    ∃ t r, modifyOp m s (fun b => zeroFlag (f b)) = .next t ∧ r = f (dread s (effectiveAddress m s)) ∧
      StoredAt 1 { s with flagZ := decide (r = 0#8) } t (effectiveAddress m s) r := by
  obtain ⟨t, ht, hst⟩ := modifyOp_storedAt hm (op := fun b => zeroFlag (f b)) rfl (.inr ha)
  exact ⟨t, _, ht, rfl, hst⟩

theorem loadOp_noFlags (hm : m.toNat ≤ 0x3F) (f : Byte → Byte) :
    loadOp m s (fun b => noFlags (f b)) =
      .next { s with acc := f (dread s (effectiveAddress m s)), wdt := elapsed s 1 } := by
  rw [loadOp_eq hm]
  rfl

theorem modifyOp_noFlags (hm : m.toNat ≤ 0x3F) (f : Byte → Byte) :
    ∃ t, modifyOp m s (fun b => noFlags (f b)) = .next t ∧
      StoredAt 1 s t (effectiveAddress m s) (f (dread s (effectiveAddress m s))) :=
  modifyOp_storedAt hm (op := fun b => noFlags (f b)) rfl (.inl rfl)

theorem storeOp_noFlags (hm : m.toNat ≤ 0x3F) (v : Byte) :
    ∃ t, storeOp m s (noFlags v) = .next t ∧ StoredAt 1 s t (effectiveAddress m s) v :=
  storeOp_storedAt (r := noFlags v) hm (.inl rfl)

end Shapes

/-! ## Logic, increment and decrement -/

/-- `g` is the operation `f` on each of the eight bits (R130). -/
def Bitwise (f : Bool → Bool → Bool) (g : Byte → Byte → Byte) : Prop :=
  ∀ (a b : Byte) (k : Nat), k < 8 → (g a b).getLsbD k = f (a.getLsbD k) (b.getLsbD k)

theorem bitwise_and : Bitwise (fun p q => p && q) (· &&& ·) := fun _ _ _ _ => BitVec.getLsbD_and

theorem bitwise_or : Bitwise (fun p q => p || q) (· ||| ·) := fun _ _ _ _ => BitVec.getLsbD_or

theorem bitwise_xor : Bitwise (fun p q => p != q) (· ^^^ ·) := fun _ _ _ _ => BitVec.getLsbD_xor

theorem bitwise_not : Bitwise (fun _ q => !q) (fun _ b => ~~~b) := fun _ b k hk => by simp [hk]

section Logic

variable {m : MField} {s : State} {f : Bool → Bool → Bool} {g : Byte → Byte → Byte}

theorem immediateOp_bitwise (h : Bitwise f g) (x : Byte) :
    ∃ t, immediateOp s (zeroFlag (g s.acc x)) = .next t ∧
      (∀ k, k < 8 → t.acc.getLsbD k = f (s.acc.getLsbD k) (x.getLsbD k)) ∧
      t = { s with acc := t.acc, flagZ := decide (t.acc = 0#8), wdt := elapsed s 1 } := by
  obtain ⟨t, ht, hacc, hrest⟩ := immediateOp_zeroFlag (s := s) (g s.acc x)
  exact ⟨t, ht, hacc ▸ h s.acc x, hrest⟩

theorem loadOp_bitwise (h : Bitwise f g) (hm : m.toNat ≤ 0x3F) :
    ∃ t, loadOp m s (fun b => zeroFlag (g s.acc b)) = .next t ∧
      (∀ k, k < 8 → t.acc.getLsbD k = f (s.acc.getLsbD k) ((dread s (effectiveAddress m s)).getLsbD k)) ∧
      t = { s with acc := t.acc, flagZ := decide (t.acc = 0#8), wdt := elapsed s 1 } := by
  obtain ⟨t, ht, hacc, hrest⟩ := loadOp_zeroFlag (s := s) hm (g s.acc)
  exact ⟨t, ht, hacc ▸ h s.acc _, hrest⟩

theorem modifyOp_bitwise (h : Bitwise f g) (hm : m.toNat ≤ 0x3F) (ha : effectiveAddress m s ≠ 0x0A#6) :
    ∃ t r, modifyOp m s (fun b => zeroFlag (g s.acc b)) = .next t ∧
      (∀ k, k < 8 → r.getLsbD k = f (s.acc.getLsbD k) ((dread s (effectiveAddress m s)).getLsbD k)) ∧
      StoredAt 1 { s with flagZ := decide (r = 0#8) } t (effectiveAddress m s) r := by
  obtain ⟨t, r, ht, hr, hst⟩ := modifyOp_zeroFlag hm ha (g s.acc)
  exact ⟨t, r, ht, hr ▸ h s.acc _, hst⟩

end Logic

/-- Settles O24: each operation is bitwise, and the shape of the instruction puts its byte in ACC or in memory. -/
theorem logicInstructions : Obligations.LogicInstructions := by
  intro m x s f
  constructor
  · rintro i b (⟨rfl, rfl, rfl⟩ | ⟨rfl, rfl, rfl⟩ | ⟨rfl, rfl, rfl⟩ |
      ⟨hm, rfl, ⟨rfl, rfl⟩ | ⟨rfl, rfl⟩ | ⟨rfl, rfl⟩ | ⟨rfl, rfl⟩⟩)
    · exact (immediateOp_bitwise (s := s) bitwise_and b :)
    · exact (immediateOp_bitwise (s := s) bitwise_or b :)
    · exact (immediateOp_bitwise (s := s) bitwise_xor b :)
    · exact (loadOp_bitwise (s := s) bitwise_and hm :)
    · exact (loadOp_bitwise (s := s) bitwise_or hm :)
    · exact (loadOp_bitwise (s := s) bitwise_xor hm :)
    · exact (loadOp_bitwise (s := s) bitwise_not hm :)
  · rintro i hm ha (⟨rfl, rfl⟩ | ⟨rfl, rfl⟩ | ⟨rfl, rfl⟩ | ⟨rfl, rfl⟩)
    · exact (modifyOp_bitwise (s := s) bitwise_and hm ha :)
    · exact (modifyOp_bitwise (s := s) bitwise_or hm ha :)
    · exact (modifyOp_bitwise (s := s) bitwise_xor hm ha :)
    · exact (modifyOp_bitwise (s := s) bitwise_not hm ha :)

/-- Settles O25: minus 1 modulo 256 is plus 255. -/
theorem incrementAndDecrement : Obligations.IncrementAndDecrement := by
  intro m s hm
  constructor
  · rintro i d (⟨rfl, rfl⟩ | ⟨rfl, rfl⟩)
    · obtain ⟨t, ht, hacc, hrest⟩ := loadOp_zeroFlag (s := s) hm inc8
      exact ⟨t, ht, by rw [hacc, toNat_inc8], hrest⟩
    · obtain ⟨t, ht, hacc, hrest⟩ := loadOp_zeroFlag (s := s) hm dec8
      exact ⟨t, ht, by rw [hacc, toNat_dec8], hrest⟩
  · rintro i d ha (⟨rfl, rfl⟩ | ⟨rfl, rfl⟩)
    · obtain ⟨t, r, ht, hr, hst⟩ := modifyOp_zeroFlag hm ha inc8
      exact ⟨t, r, ht, by rw [hr, toNat_inc8], hst⟩
    · obtain ⟨t, r, ht, hr, hst⟩ := modifyOp_zeroFlag hm ha dec8
      exact ⟨t, r, ht, by rw [hr, toNat_dec8], hst⟩

/-! ## Rotates -/

/-- Settles O26: each is a rotate of the 8 bits in its shape, without a flag. -/
theorem rotatesWithoutCarry : Obligations.RotatesWithoutCarry := by
  intro m s hm
  constructor
  · rintro i d (⟨rfl, rfl⟩ | ⟨rfl, rfl⟩)
    · exact ⟨_, loadOp_noFlags hm rotateRight, fun k hk => getLsbD_rotateRight _ hk, rfl⟩
    · exact ⟨_, loadOp_noFlags hm rotateLeft, fun k hk => getLsbD_rotateLeft _ hk, rfl⟩
  · rintro i d (⟨rfl, rfl⟩ | ⟨rfl, rfl⟩)
    · obtain ⟨t, ht, hst⟩ := modifyOp_noFlags (s := s) hm rotateRight
      exact ⟨t, _, ht, fun k hk => getLsbD_rotateRight _ hk, hst⟩
    · obtain ⟨t, ht, hst⟩ := modifyOp_noFlags (s := s) hm rotateLeft
      exact ⟨t, _, ht, fun k hk => getLsbD_rotateLeft _ hk, hst⟩

/-- The byte and the C of a rotate through the carry are the nine bits `nine` moved by `d` positions. -/
def RotatesNine (nine : BitVec 9) (d : Nat) (r : AluResult) : Prop :=
  ∃ v, r = carryFlag v (nine.getLsbD ((8 + d) % 9)) ∧ ∀ k, k < 8 → v.getLsbD k = nine.getLsbD ((k + d) % 9)

theorem rotateRightCarry_rotatesNine (c : Bool) (v : Byte) :
    RotatesNine (BitVec.ofBool c ++ v) 1 (rotateRightCarry c v) := by
  refine ⟨_, ?_, fun k hk => getLsbD_rotateRightCarry c v hk⟩
  rw [getLsbD_carry_append]
  rfl

theorem rotateLeftCarry_rotatesNine (c : Bool) (v : Byte) :
    RotatesNine (BitVec.ofBool c ++ v) 8 (rotateLeftCarry c v) := by
  refine ⟨_, ?_, fun k hk => getLsbD_rotateLeftCarry c v hk⟩
  rw [getLsbD_carry_append]
  rfl

section RotateNine

variable {m : MField} {s : State} {op : Byte → AluResult} {nine : BitVec 9} {d : Nat}

theorem loadOp_rotatesNine (hm : m.toNat ≤ 0x3F) (h : RotatesNine nine d (op (dread s (effectiveAddress m s)))) :
    ∃ t, loadOp m s op = .next t ∧ (∀ k, k < 8 → t.acc.getLsbD k = nine.getLsbD ((k + d) % 9)) ∧
      t = { s with acc := t.acc, flagC := nine.getLsbD ((8 + d) % 9), wdt := elapsed s 1 } := by
  obtain ⟨v, hr, hbits⟩ := h
  rw [loadOp_eq hm, hr]
  exact ⟨_, rfl, hbits, rfl⟩

theorem modifyOp_rotatesNine (hm : m.toNat ≤ 0x3F) (ha : effectiveAddress m s ≠ 0x0A#6)
    (h : RotatesNine nine d (op (dread s (effectiveAddress m s)))) :
    ∃ t r, modifyOp m s op = .next t ∧ (∀ k, k < 8 → r.getLsbD k = nine.getLsbD ((k + d) % 9)) ∧
      StoredAt 1 { s with flagC := nine.getLsbD ((8 + d) % 9) } t (effectiveAddress m s) r := by
  obtain ⟨v, hr, hbits⟩ := h
  obtain ⟨t, ht, hst⟩ := modifyOp_storedAt hm hr (.inr ha)
  exact ⟨t, v, ht, hbits, hst⟩

end RotateNine

/-- Settles O27: each rotates the nine bits, and its shape writes the top one to C. -/
theorem rotatesThroughCarry : Obligations.RotatesThroughCarry := by
  rintro m s v nine hm rfl rfl
  constructor
  · rintro i d (⟨rfl, rfl⟩ | ⟨rfl, rfl⟩)
    · exact loadOp_rotatesNine hm (rotateRightCarry_rotatesNine _ _)
    · exact loadOp_rotatesNine hm (rotateLeftCarry_rotatesNine _ _)
  · rintro i d ha (⟨rfl, rfl⟩ | ⟨rfl, rfl⟩)
    · exact modifyOp_rotatesNine hm ha (rotateRightCarry_rotatesNine _ _)
    · exact modifyOp_rotatesNine hm ha (rotateLeftCarry_rotatesNine _ _)

/-! ## Moves, bits, whole bytes -/

/-- Settles O28: the shapes of a load and of a store, the byte unchanged. -/
theorem moves : Obligations.Moves := fun _ x s =>
  ⟨fun hm => ⟨loadOp_noFlags hm id, storeOp_noFlags hm s.acc⟩, immediateOp_eq (noFlags x)⟩

/-- Settles O29: one bit of the byte read is forced, without a flag. -/
theorem bitOperations : Obligations.BitOperations := by
  intro m i s hm
  constructor
  · obtain ⟨t, ht, hst⟩ := modifyOp_noFlags (s := s) hm (clearBit i)
    exact ⟨t, _, ht, fun k hk => getLsbD_clearBit i _ hk, hst⟩
  · obtain ⟨t, ht, hst⟩ := modifyOp_noFlags (s := s) hm (setBit i)
    exact ⟨t, _, ht, fun k hk => getLsbD_setBit i _ hk, hst⟩

/-- Settles O30: the byte read at 12H is latch and outside level together, and the byte written replaces the whole latch. -/
theorem portBitWriteRewritesLatch : Obligations.PortBitWriteRewritesLatch := by
  intro i s hlow
  have hpins : dread s 0x12#6 = s.paL &&& s.extPA := if_pos hlow
  have hexec : exec (.setBit 0x12#7 i) s = .next ((s.withPaL (setBit i (dread s 0x12#6))).tick 1) := rfl
  rw [hexec, tick_eq, hpins]
  refine ⟨_, rfl, fun k hk => ?_, rfl⟩
  change (setBit i (s.paL &&& s.extPA)).getLsbD k = _
  rw [getLsbD_setBit i _ hk, BitVec.getLsbD_and]
  split <;> simp_all

/-- Settles O31: two constants and the exchange of nibbles, without a flag. -/
theorem wholeByteClearSetSwap : Obligations.WholeByteClearSetSwap := by
  intro m s hm
  refine ⟨storeOp_noFlags hm 0x00#8, storeOp_noFlags hm 0xFF#8, ?_, ?_⟩
  · obtain ⟨t, ht, hst⟩ := modifyOp_noFlags (s := s) hm swapNibbles
    exact ⟨t, _, ht, toNat_swapNibbles _, hst⟩
  · exact ⟨_, loadOp_noFlags hm swapNibbles, toNat_swapNibbles _, rfl⟩

end Sys2Proof.Machine
end

section
/-! Skips, jumps, calls, returns, table reads and the remaining instructions (files 46 to 48): exact next states. -/

namespace Sys2Proof.Machine

/-! ## Skips -/

theorem toNat_eq_zero_iff (v : Byte) : v.toNat = 0 ↔ v = 0#8 := BitVec.toNat_inj (y := 0#8)

/-- Settles O33: the shape of a test, with the three conditions. -/
theorem skipsOnTest : Obligations.SkipsOnTest := by
  rintro m i s v hm rfl
  simp only [exec, execSz, execSzBit, execSnzBit, testSkip_eq hm, decide_eq_true_eq, Bool.not_eq_true', toNat_eq_zero_iff,
    and_self]

theorem loadSkip_adds (d : Nat) {m : MField} {s : State} (hm : m.toNat ≤ 0x3F) {f : Byte → Byte}
    (hf : ∀ v, (f v).toNat = (v.toNat + d) % 256) :
    ∃ t, loadSkip m s f = .next t ∧ t.acc.toNat = ((dread s (effectiveAddress m s)).toNat + d) % 256 ∧
      t = { s with
        acc := t.acc
        pc := BitVec.ofNat 10 (s.pc.toNat + if t.acc.toNat = 0 then 1 else 0)
        wdt := elapsed s (if t.acc.toNat = 0 then 2 else 1) } := by
  refine ⟨_, loadSkip_eq hm rfl, hf _, ?_⟩
  simp only [toNat_eq_zero_iff]

/-- Settles O34: the shape of a load with a skip, adding 0, 1 or 255. -/
theorem skipsThroughAcc : Obligations.SkipsThroughAcc := by
  rintro m s i d hm (⟨rfl, rfl⟩ | ⟨rfl, rfl⟩ | ⟨rfl, rfl⟩)
  · exact loadSkip_adds 0 hm fun v => (Nat.mod_eq_of_lt v.isLt).symm
  · exact loadSkip_adds 1 hm toNat_inc8
  · exact loadSkip_adds 255 hm toNat_dec8

theorem modifySkip_adds {d : Nat} {m : MField} {s : State} (hm : m.toNat ≤ 0x3F) {f : Byte → Byte}
    (hf : ∀ v, (f v).toNat = (v.toNat + d) % 256) {r : Byte}
    (hr : r.toNat = ((dread s (effectiveAddress m s)).toNat + d) % 256) :
    if effectiveAddress m s = 0x06#6 ∧ r.toNat = 0 then modifySkip m s f = .refused .skipWithPclLoad
    else
      ∃ t, modifySkip m s f = .next t ∧
        StoredAt (if r.toNat = 0 then 2 else 1)
          { s with pc := BitVec.ofNat 10 (s.pc.toNat + if r.toNat = 0 then 1 else 0) } t (effectiveAddress m s) r := by
  have hv : f (dread s (effectiveAddress m s)) = r := BitVec.eq_of_toNat_eq ((hf _).trans hr.symm)
  simp only [toNat_eq_zero_iff]
  split
  · exact modifySkip_refused.mpr (.inr ⟨hm, by rwa [hv], rfl⟩)
  · exact modifySkip_storedAt hm hv ‹_›

/-- Settles O35: the shape of a store with a skip, adding 1 or 255. -/
theorem skipsThroughMemory : Obligations.SkipsThroughMemory := by
  rintro m s i d r hm (⟨rfl, rfl⟩ | ⟨rfl, rfl⟩) hr
  · exact modifySkip_adds hm toNat_inc8 hr
  · exact modifySkip_adds hm toNat_dec8 hr

/-! ## Jumps, calls, returns -/

theorem extractLsb'_zero_eq_ofNat (addr : AddrField) : addr.extractLsb' 0 10 = BitVec.ofNat 10 addr.toNat := by
  apply BitVec.eq_of_toNat_eq
  simp

/-- Settles O32: the address field without its eleventh bit, which is 0 in range. -/
theorem jumpAndCall : Obligations.JumpAndCall := by
  intro addr s h
  have hrange : addr.inRange = true := AddrField.inRange_iff.mpr h
  rw [exec_jmp_of_inRange s hrange, exec_call_of_inRange s hrange, tick_eq, tick_eq, extractLsb'_zero_eq_ofNat]
  exact ⟨rfl, rfl⟩

theorem withReturn_of_stkv {s : State} (h : s.stkv = true) (k : State → Result) : withReturn s k = k s.pop := if_pos h

theorem withReturn_of_empty {s : State} (h : s.stkv = false) (k : State → Result) :
    withReturn s k = .refused .returnWithEmptyStack := if_neg (by simp [h])

/-- Settles O36: the stack mark decides. -/
theorem returns : Obligations.Returns := by
  intro x s
  constructor
  · intro h
    simp only [exec, execRet, execReti, execRetAX, withReturn_of_stkv h, tick_eq]
    exact ⟨rfl, rfl, rfl⟩
  · intro h
    simp only [exec, execRet, execReti, execRetAX, withReturn_of_empty h, and_self]

/-- Settles O37: the second call overwrites the address saved by the first, and the return empties the stack register. -/
theorem stackHoldsOneAddress : Obligations.StackHoldsOneAddress := by
  intro a b s ha hb
  have toNat_pc {c : AddrField} (hc : c.toNat ≤ 0x3FF) : (BitVec.ofNat 10 c.toNat).toNat = c.toNat := by
    rw [BitVec.toNat_ofNat]; omega
  refine ⟨_, _, _, (jumpAndCall a s ha).2, toNat_pc ha, (jumpAndCall b _ hb).2, toNat_pc hb,
    ((returns 0#8 _).1 rfl).1, ?_, rfl, rfl, ((returns 0#8 _).2 rfl).1⟩
  change (BitVec.ofNat 10 a.toNat + 1#10).toNat = _
  rw [BitVec.toNat_add, toNat_pc ha]
  rfl

/-! ## Table reads -/

/-- A table read of the word at ROM address `x`, its two parts as numbers. -/
theorem tableRead_of_word {m : MField} {s : State} {x : PAddr} {a : Nat} {w : Word14} (hm : m.toNat ≤ 0x3F)
    (hx : x.toNat = a) (hw : w = Memory.read s.rom a) :
    ∃ t, tableRead m s x = .next t ∧
      StoredAt 2 { s with tblh := BitVec.ofNat 6 (w.toNat / 256) } t (effectiveAddress m s)
        (BitVec.ofNat 8 (w.toNat % 256)) := by
  have hword : s.pread x = w := by rw [State.pread, hx, hw]
  have hhigh : w.extractLsb' 8 6 = BitVec.ofNat 6 (w.toNat / 256) := by
    apply BitVec.eq_of_toNat_eq
    simp [Nat.shiftRight_eq_div_pow]
  have hlow : w.extractLsb' 0 8 = BitVec.ofNat 8 (w.toNat % 256) := by
    apply BitVec.eq_of_toNat_eq
    simp
  obtain ⟨t, ht, hst⟩ := tableRead_storedAt hm x
  rw [hword, hhigh, hlow] at hst
  exact ⟨t, ht, hst⟩

/-- Settles O38: the table address is the page with TBLP below it. -/
theorem tableReads : Obligations.TableReads := by
  rintro m s i a w hm (⟨rfl, rfl⟩ | ⟨rfl, rfl⟩) hw
  · exact tableRead_of_word hm (toNat_page_append s.pc s.tblp) hw
  · exact tableRead_of_word hm (toNat_append_add 0b11#2 s.tblp) hw

/-! ## NOP, HALT and the watchdog -/

/-- Settles O39: a cycle is counted, or the marks of HALT are set. -/
theorem nopAndHalt : Obligations.NopAndHalt := fun s => ⟨congrArg _ (tick_eq s 1), rfl⟩

theorem tick_of_disabled {s : State} (h : s.cfg.wdtEn = false) (n : Nat) : s.tick n = s := by
  rw [tick_eq, elapsed_eq, h]
  rfl

/-! With the pair selected: the first of the two sets its mark, the other one then clears. -/

section Pair

variable {s : State} (hen : s.cfg.wdtEn = true) (htimes : s.cfg.clrWdtTimes = .two)
include hen htimes

theorem exec_clrWdt1_marks (hw : s.w2 = false) : exec .clrWdt1 s = .next { s with w1 := true, wdt := s.wdt + 1 } :=
  execClrWdt1_next.mpr (.inr ⟨hen, htimes, by simp [hw, State.mark1, State.tick, hen]⟩)

theorem exec_clrWdt2_marks (hw : s.w1 = false) : exec .clrWdt2 s = .next { s with w2 := true, wdt := s.wdt + 1 } :=
  execClrWdt2_next.mpr (.inr ⟨hen, htimes, by simp [hw, State.mark2, State.tick, hen]⟩)

theorem exec_clrWdt1_clears (hw : s.w2 = true) :
    exec .clrWdt1 s = .next { s with wdt := 0, flagPD := false, flagTO := false, w1 := false, w2 := false } :=
  execClrWdt1_next.mpr (.inr ⟨hen, htimes, by simp [hw, State.clearWatchdog, State.clearMarks]⟩)

theorem exec_clrWdt2_clears (hw : s.w1 = true) :
    exec .clrWdt2 s = .next { s with wdt := 0, flagPD := false, flagTO := false, w1 := false, w2 := false } :=
  execClrWdt2_next.mpr (.inr ⟨hen, htimes, by simp [hw, State.clearWatchdog, State.clearMarks]⟩)

end Pair

/-- Settles O40: the options and the other mark decide. -/
theorem watchdogClearing : Obligations.WatchdogClearing := by
  intro s
  refine ⟨fun hen => ?_, fun hen htimes => ?_, fun hen htimes => ?_⟩
  · refine ⟨execClrWdt_next.mpr (.inl ⟨hen, ?_⟩), execClrWdt1_next.mpr (.inl ⟨hen, ?_⟩),
      execClrWdt2_next.mpr (.inl ⟨hen, ?_⟩)⟩
    all_goals exact (tick_of_disabled hen 1).symm
  · refine ⟨execClrWdt_next.mpr (.inr ⟨hen, htimes, rfl⟩), ?_, ?_⟩
    · simp [exec, execClrWdt1, hen, htimes]
    · simp [exec, execClrWdt2, hen, htimes]
  · refine ⟨by simp [exec, execClrWdt, hen, htimes], ?_, ?_⟩
    · split
      · exact exec_clrWdt1_clears hen htimes ‹_›
      · exact exec_clrWdt1_marks hen htimes (Bool.eq_false_of_not_eq_true ‹_›)
    · split
      · exact exec_clrWdt2_clears hen htimes ‹_›
      · exact exec_clrWdt2_marks hen htimes (Bool.eq_false_of_not_eq_true ‹_›)

/-- Settles O41: the marks, not the number of instructions, decide. -/
theorem pairMustAlternate : Obligations.PairMustAlternate := by
  rintro s i j hen htimes hw1 hw2 (⟨rfl, rfl⟩ | ⟨rfl, rfl⟩)
  · refine ⟨_, _, _, exec_clrWdt1_marks hen htimes hw2, exec_clrWdt1_marks (by exact hen) (by exact htimes) hw2,
      exec_clrWdt2_clears (by exact hen) (by exact htimes) rfl, rfl, rfl, rfl, ?_⟩
    simp only [hw1, hw2]
  · refine ⟨_, _, _, exec_clrWdt2_marks hen htimes hw1, exec_clrWdt2_marks (by exact hen) (by exact htimes) hw1,
      exec_clrWdt1_clears (by exact hen) (by exact htimes) rfl, rfl, rfl, rfl, ?_⟩
    simp only [hw1, hw2]

end Sys2Proof.Machine
end

section
/-! The step, the instruction boundary, the resets and the pins (`60_exceptions.md`): exact next states. -/

namespace Sys2Proof.Machine

/-! ## The step -/

theorem step_of_fetch {s : State} {i : Instr} (hrun : s.halted = false) (h : s.fetch = .ok i) :
    step s = mapNext State.boundary (exec i s.advance) := by
  simp [step, hrun, h]

theorem step_of_halted {s : State} (h : s.halted = true) : step s = .next s.boundary := by
  simp [step, h]

/-- Settles O6: fetch and increment as numbers, then the instruction and the boundary. -/
theorem stepRunsDecodedInstruction : Obligations.StepRunsDecodedInstruction := by
  refine ⟨fun s i hrun hdecode => ?_, fun s => step_of_halted⟩
  rw [step_of_fetch hrun hdecode, advance_eq]
  cases exec i { s with pc := BitVec.ofNat 10 (s.pc.toNat + 1) } <;> rfl

/-! ## The boundary, event by event -/

section Boundary

variable {s : State}

theorem boundary_of_powerOn {u : PowerOnValues} (h : s.currentInput.event = some (.powerOn u)) :
    s.boundary = s.withInput.takeReset (.powerOn u) := by
  simp [State.boundary, h]

theorem boundary_of_resLow (h : s.currentInput.event = some .resLow) :
    s.boundary = s.withInput.takeReset (if s.halted then .resHalt else .resNormal) := by
  simp [State.boundary, h]

theorem boundary_of_expired (h : s.currentInput.event = none) (he : s.watchdogExpired = true) :
    s.boundary = s.withInput.takeReset .wdt := by
  simp [State.boundary, h, he]

theorem boundary_of_edge (h : s.currentInput.event = none) (he : s.watchdogExpired = false) (hh : s.halted = true)
    (hw : s.wakeEdge s.currentInput.extPB = true) : s.boundary = s.withInput.wake := by
  simp [State.boundary, h, he, hh, hw]

theorem boundary_of_quiet (h : s.currentInput.event = none) (he : s.watchdogExpired = false)
    (hw : s.halted = false ∨ s.wakeEdge s.currentInput.extPB = false) : s.boundary = s.withInput := by
  obtain hw | hw := hw <;> simp [State.boundary, h, he, hw]

theorem watchdogExpired_iff :
    s.watchdogExpired = true ↔ s.cfg.wdtEn = true ∧ s.halted = false ∧ 2 ^ s.cfg.wdtN.toNat ≤ s.wdt := by
  simp [State.watchdogExpired, and_assoc]

theorem watchdogExpired_eq_false_iff :
    s.watchdogExpired = false ↔ s.wdt < 2 ^ s.cfg.wdtN.toNat ∨ s.halted = true ∨ s.cfg.wdtEn = false := by
  rw [← Bool.not_eq_true, watchdogExpired_iff]
  cases s.cfg.wdtEn <;> cases s.halted <;> simp

theorem ne_zero_iff_exists_bit (v : Byte) : v ≠ 0#8 ↔ ∃ k, k < 8 ∧ v.getLsbD k = true := by
  constructor
  · intro h
    by_contra hbits
    push Not at hbits
    exact h (BitVec.eq_of_getLsbD_eq fun k hk => by simpa using hbits k hk)
  · rintro ⟨k, -, hk⟩ rfl
    simp at hk

/-- A falling edge is a line with the wake-up option whose pin was high and is low. -/
theorem wakeEdge_iff {ext : Byte} :
    s.wakeEdge ext = true ↔
      ∃ k, k < 8 ∧ s.cfg.wake.getLsbD k = true ∧ (s.pinB s.extPB).getLsbD k = true ∧ (s.pinB ext).getLsbD k = false := by
  rw [State.wakeEdge, decide_eq_true_iff, ne_zero_iff_exists_bit]
  refine exists_congr fun k => and_congr_right fun hk => ?_
  simp only [BitVec.getLsbD_and, BitVec.getLsbD_not, hk, decide_true, Bool.true_and, Bool.and_eq_true, Bool.not_eq_true']
  tauto

end Boundary

/-! ## The halted chip -/

/-- Settles O8: no edge, and a halted chip has no time-out, so the boundary is the environment's part alone. -/
theorem haltedCoreStandsStill : Obligations.HaltedCoreStandsStill := by
  intro s hhalted
  have hquiet (hev : s.currentInput.event = none)
      (hedge : ∀ k, k < 8 → s.cfg.wake.getLsbD k = true → (s.pinB s.extPB).getLsbD k = true →
        (s.pinB s.currentInput.extPB).getLsbD k = true) : step s = .next s.withInput := by
    have hw : s.wakeEdge s.currentInput.extPB = false := by
      rw [← Bool.not_eq_true, wakeEdge_iff]
      rintro ⟨k, hk, hwake, hhigh, hlow⟩
      rw [hedge k hk hwake hhigh] at hlow
      cases hlow
    rw [step_of_halted hhalted,
      boundary_of_quiet hev (watchdogExpired_eq_false_iff.mpr (.inr (.inl hhalted))) (.inr hw)]
  refine ⟨hquiet, fun hinputs => ?_⟩
  have hinput : s.currentInput = { extPA := s.extPA, extPB := s.extPB, event := none } := by
    rw [State.currentInput, hinputs]
  have hstay : s.withInput = s := by
    rw [State.withInput, hinput, hinputs, List.tail_nil, ← hinputs]
  rw [hquiet (by rw [hinput]) (fun k _ _ h => by rw [hinput]; exact h), hstay]

/-- Settles O9: the line is an edge, and a halted chip has no time-out before it. -/
theorem fallingEdgeWakes : Obligations.FallingEdgeWakes := by
  intro s k hhalted hev hk hwake hhigh hlow
  rw [step_of_halted hhalted, boundary_of_edge hev (watchdogExpired_eq_false_iff.mpr (.inr (.inl hhalted))) hhalted
    (wakeEdge_iff.mpr ⟨k, hk, hwake, hhigh, hlow⟩)]
  rfl

/-! ## Resets at a boundary -/

/-- Settles O10: the boundary looks at RES before the count and the edge. -/
theorem resBeatsTimeoutAndWakeUp : Obligations.ResBeatsTimeoutAndWakeUp := by
  intro s hev
  rw [boundary_of_resLow hev]
  cases s.halted <;> rfl

/-- Settles O11: the count of the running chip has expired at the boundary. -/
theorem watchdogTimeoutResets : Obligations.WatchdogTimeoutResets := by
  intro s u i hrun hfetch hexec hurun hen hcount hev
  have hexpired : u.watchdogExpired = true := watchdogExpired_iff.mpr ⟨hen, hurun, hcount⟩
  rw [step_of_fetch hrun hfetch, hexec, mapNext, boundary_of_expired hev hexpired]
  rfl

/-- Settles O12: without a time-out the boundary wakes the chip at most, and a running one not even that. -/
theorem noTimeoutBelowPeriod : Obligations.NoTimeoutBelowPeriod := by
  intro s hev
  constructor
  · intro h
    have he := watchdogExpired_eq_false_iff.mpr h
    by_cases hw : s.halted = true ∧ s.wakeEdge s.currentInput.extPB = true
    · rw [boundary_of_edge hev he hw.1 hw.2]
      exact ⟨rfl, rfl, rfl, rfl, rfl, rfl, rfl, rfl⟩
    · rw [boundary_of_quiet hev he (by simpa only [not_and_or, Bool.not_eq_true] using hw)]
      exact ⟨rfl, rfl, rfl, rfl, rfl, rfl, rfl, rfl⟩
  · intro hrun h
    exact boundary_of_quiet hev (watchdogExpired_eq_false_iff.mpr (h.imp_right .inr)) (.inl hrun)

/-- Settles O13, by the kind of reset. -/
theorem resetTransition : Obligations.ResetTransition := by
  intro kind s
  cases kind with
  | powerOn u => exact ⟨by simp [State.takeReset], rfl, fun h => absurd rfl (h u)⟩
  | resNormal | resHalt | wdt => exact ⟨by simp [State.takeReset], rfl, fun _ => by simp [State.takeReset]⟩

/-- Settles O14, by evaluation of the one state. -/
theorem resetStateIsALaunch : Obligations.ResetStateIsALaunch := by
  unfold Obligations.ResetStateIsALaunch State.Launch
  decide

/-- Values stored at consecutive addresses are read back. -/
theorem Memory.read_fill {w hi : Nat} (vs : List (BitVec w)) {a k : Nat} (mem : List (Nat × BitVec w)) (hk : k < vs.length)
    (hhi : a + k < hi) : Memory.read (Memory.fill hi a vs mem) (a + k) = vs[k] := by
  induction vs generalizing a k mem with
  | nil => cases hk
  | cons v vs ih =>
    rw [Memory.fill, if_pos (by omega)]
    cases k with
    | zero => exact (Memory.read_fill_below vs _ (Nat.lt_succ_self a)).trans (Memory.read_write_same mem a v)
    | succ k =>
      rw [show a + (k + 1) = a + 1 + k by omega]
      exact ih _ (Nat.lt_of_succ_lt_succ hk) (by omega)

/-- Settles O15: the drawn cells fill RAM from 20H up. -/
theorem powerOnLeavesAnyValue : Obligations.PowerOnLeavesAnyValue := by
  intro s u hev
  rw [boundary_of_powerOn hev]
  refine ⟨by simp [State.Launch, State.takeReset], rfl, rfl, rfl, rfl, rfl, rfl, rfl, rfl, rfl, fun k hk hlen => ?_, rfl,
    rfl⟩
  rw [List.getElem?_eq_getElem hlen]
  exact congrArg some (Memory.read_fill u.ram [] hlen (by omega))

/-- Settles O50, by evaluation of the one state. -/
theorem resetMeetsInvariant : Obligations.ResetMeetsInvariant := by
  refine ⟨State.reset_memoryOk, ?_, ?_⟩
  · unfold State.WatchdogOk
    decide
  · unfold State.HaltOk
    decide

/-! ## The pins -/

/-- Settles O58: PC0/REM by mode, latch and HALT, and the carrier's divisor and duty by the eight settings of option 6. -/
theorem outputPins : Obligations.OutputPins := by
  intro s i
  refine ⟨fun hmode => ?_, fun hmode hlatch => ?_, fun hmode hlatch hrun => ?_, fun hosc => ?_, ?_, ?_⟩
  · simp [State.remPin, hmode]
  · simp [State.remPin, hmode, hlatch]
  · refine ⟨carrierDivisor s.cfg, carrierDuty s.cfg, by simp [State.remPin, hmode, hlatch, hrun], ?_⟩
    cases hm : s.cfg.carM <;> cases hn : s.cfg.carN <;>
      simp [carrierDivisor, carrierDuty, carMValue, carNValue, hm, hn]
  · cases h : s.halted <;> simp [State.osc2Pin, hosc, h]
  · cases h : s.paL.getLsbD i.toNat <;> simp [State.lineA, h]
  · simp [State.lineB]

end Sys2Proof.Machine
end

section
/-! What an instruction can do to the registers that decide over control, the stack register and its mark, TO, PD, the
watchdog and its marks, Halted, TBLH, said once (`exec_effect`); what a boundary can do to them; and the statements about
every step that follow. -/

namespace Sys2Proof.Machine

/-! ## The control registers through the operations -/

/-- `t` has the control registers, the options and the environment's list of `s`; the watchdog count may have gone on if the
watchdog is enabled, and RAM is still in canonical form. -/
structure KeepsControl (s t : State) : Prop where
  cfg : t.cfg = s.cfg
  stk : t.stk = s.stk
  stkv : t.stkv = s.stkv
  tblh : t.tblh = s.tblh
  flagPD : t.flagPD = s.flagPD
  flagTO : t.flagTO = s.flagTO
  w1 : t.w1 = s.w1
  w2 : t.w2 = s.w2
  halted : t.halted = s.halted
  inputs : t.inputs = s.inputs
  wdt : s.cfg.wdtEn = false → t.wdt = s.wdt
  ram : Memory.wf 0x20 0x40 s.ram = true → Memory.wf 0x20 0x40 t.ram = true

namespace KeepsControl

theorem trans {s t u : State} (h : KeepsControl s t) (k : KeepsControl t u) : KeepsControl s u where
  cfg := k.cfg.trans h.cfg
  stk := k.stk.trans h.stk
  stkv := k.stkv.trans h.stkv
  tblh := k.tblh.trans h.tblh
  flagPD := k.flagPD.trans h.flagPD
  flagTO := k.flagTO.trans h.flagTO
  w1 := k.w1.trans h.w1
  w2 := k.w2.trans h.w2
  halted := k.halted.trans h.halted
  inputs := k.inputs.trans h.inputs
  wdt hen := (k.wdt (by rw [h.cfg]; exact hen)).trans (h.wdt hen)
  ram hram := k.ram (h.ram hram)

variable (s : State)

theorem withFlags (f : FlagWrites) : KeepsControl s (s.withFlags f) :=
  ⟨rfl, rfl, rfl, rfl, rfl, rfl, rfl, rfl, rfl, rfl, fun _ => rfl, id⟩

theorem withAcc (v : Byte) : KeepsControl s (s.withAcc v) :=
  ⟨rfl, rfl, rfl, rfl, rfl, rfl, rfl, rfl, rfl, rfl, fun _ => rfl, id⟩

theorem withPc (a : PAddr) : KeepsControl s (s.withPc a) :=
  ⟨rfl, rfl, rfl, rfl, rfl, rfl, rfl, rfl, rfl, rfl, fun _ => rfl, id⟩

theorem tick (n : Nat) : KeepsControl s (s.tick n) :=
  ⟨rfl, rfl, rfl, rfl, rfl, rfl, rfl, rfl, rfl, rfl, fun hen => by rw [tick_of_disabled hen], id⟩

theorem skipIf (b : Bool) : KeepsControl s (s.skipIf b) := by
  rw [skipIf_eq]
  exact ⟨rfl, rfl, rfl, rfl, rfl, rfl, rfl, rfl, rfl, rfl, fun hen => by simp [hen], id⟩

theorem dwrite (a : DAddr) (v : Byte) : KeepsControl s (dwrite s a v) where
  cfg := dwrite_cfg s a v
  stk := dwrite_stk s a v
  stkv := dwrite_stkv s a v
  tblh := dwrite_tblh s a v
  flagPD := dwrite_flagPD s a v
  flagTO := dwrite_flagTO s a v
  w1 := dwrite_w1 s a v
  w2 := dwrite_w2 s a v
  halted := dwrite_halted s a v
  inputs := dwrite_inputs s a v
  wdt hen := by rw [dwrite_wdt, tick_of_disabled hen, ite_self]
  ram hram := by
    rw [dwrite_ram]
    split
    · exact Memory.wf_write v ‹_› a.isLt hram
    · exact hram

end KeepsControl

/-! ## The shapes of instruction -/

section Shapes

variable {s t : State} {m : MField}

theorem loadOp_keepsControl {op : Byte → AluResult} (h : loadOp m s op = .next t) : KeepsControl s t := by
  obtain ⟨-, rfl⟩ := loadOp_next.mp h
  exact ((KeepsControl.withFlags s _).trans (.withAcc _ _)).trans (.tick _ _)

theorem immediateOp_keepsControl {r : AluResult} (h : immediateOp s r = .next t) : KeepsControl s t := by
  obtain rfl := immediateOp_next.mp h
  exact ((KeepsControl.withFlags s _).trans (.withAcc _ _)).trans (.tick _ _)

theorem storeResult_keepsControl {a : DAddr} {r : AluResult} (h : storeResult s a r = .next t) : KeepsControl s t := by
  obtain ⟨-, rfl⟩ := storeResult_next.mp h
  exact ((KeepsControl.withFlags s _).trans (.dwrite _ _ _)).trans (.tick _ _)

theorem testSkip_keepsControl {p : Byte → Bool} (h : testSkip m s p = .next t) : KeepsControl s t := by
  obtain ⟨-, rfl⟩ := testSkip_next.mp h
  exact (KeepsControl.skipIf s _).trans (.tick _ _)

theorem loadSkip_keepsControl {f : Byte → Byte} (h : loadSkip m s f = .next t) : KeepsControl s t := by
  obtain ⟨-, rfl⟩ := loadSkip_next.mp h
  exact ((KeepsControl.withAcc s _).trans (.skipIf _ _)).trans (.tick _ _)

theorem modifySkip_keepsControl {f : Byte → Byte} (h : modifySkip m s f = .next t) : KeepsControl s t := by
  obtain ⟨-, -, rfl⟩ := modifySkip_next.mp h
  exact ((KeepsControl.dwrite s _ _).trans (.skipIf _ _)).trans (.tick _ _)

theorem tableRead_keepsControl {x : PAddr} (h : tableRead m s x = .next t) :
    KeepsControl (s.withTblh ((s.pread x).extractLsb' 8 6)) t := by
  obtain ⟨-, rfl⟩ := tableRead_next.mp h
  exact (KeepsControl.dwrite _ _ _).trans (.tick _ _)

end Shapes

/-! ## Every instruction -/

/-- What an instruction that answers `t` in the state `s` can do to the control registers. -/
inductive Effect (i : Instr) (s t : State) : Prop
  /-- Nothing. -/
  | data (h : KeepsControl s t)
  /-- TBLH loaded, by a table read. -/
  | table (m : MField) (v : BitVec 6) (hi : i = .tabrdc m ∨ i = .tabrdl m) (h : KeepsControl (s.withTblh v) t)
  /-- PC pushed, by CALL. -/
  | call (addr : AddrField) (hi : i = .call addr) (h : KeepsControl s.push t)
  /-- PC popped, by a return. -/
  | ret (hi : i = .ret ∨ i = .reti ∨ ∃ x, i = .retAX x) (h : KeepsControl s.pop t)
  /-- The core stopped, by HALT. -/
  | halt (hi : i = .halt)
      (ht : t = { s with flagPD := true, flagTO := false, wdt := 0, w1 := false, w2 := false, halted := true })
  /-- The watchdog cleared, by the one instruction or by the second of the pair. -/
  | clear (h : ClearsWatchdog i s) (ht : t = s.clearWatchdog ∨ t = s.clearWatchdog.clearMarks)
  /-- A mark set, by the first of the pair. -/
  | mark (hen : s.cfg.wdtEn = true) (htimes : s.cfg.clrWdtTimes = .two)
      (ht : (s.w2 = false ∧ t = s.mark1.tick 1) ∨ (s.w1 = false ∧ t = s.mark2.tick 1))

/-- Everything an instruction can do to the control registers; the cases follow the shapes `exec` sends the instructions
to. -/
theorem exec_effect {i : Instr} {s t : State} (h : exec i s = .next t) : Effect i s t := by
  cases i with dsimp only [exec] at h
  | nop =>
    obtain rfl := next_inj.mp h
    exact .data (.tick s 1)
  | halt =>
    obtain rfl := next_inj.mp h
    exact .halt rfl rfl
  | clrWdt =>
    obtain ⟨-, rfl⟩ | ⟨hen, htimes, rfl⟩ := execClrWdt_next.mp h
    · exact .data (.tick s 1)
    · exact .clear ⟨hen, .inl ⟨rfl, htimes⟩⟩ (.inl rfl)
  | clrWdt1 =>
    obtain ⟨-, rfl⟩ | ⟨hen, htimes, ht⟩ := execClrWdt1_next.mp h
    · exact .data (.tick s 1)
    · cases hw : s.w2
      · exact .mark hen htimes (.inl ⟨hw, by rw [ht, hw]; rfl⟩)
      · exact .clear ⟨hen, .inr (.inl ⟨rfl, htimes, hw⟩)⟩ (.inr (by rw [ht, hw]; rfl))
  | clrWdt2 =>
    obtain ⟨-, rfl⟩ | ⟨hen, htimes, ht⟩ := execClrWdt2_next.mp h
    · exact .data (.tick s 1)
    · cases hw : s.w1
      · exact .mark hen htimes (.inr ⟨hw, by rw [ht, hw]; rfl⟩)
      · exact .clear ⟨hen, .inr (.inr ⟨rfl, htimes, hw⟩)⟩ (.inr (by rw [ht, hw]; rfl))
  | ret | reti =>
    obtain ⟨-, hk⟩ := withReturn_next.mp h
    obtain rfl := next_inj.mp hk
    exact .ret (by simp) (.tick _ _)
  | retAX x =>
    obtain ⟨-, hk⟩ := withReturn_next.mp h
    obtain rfl := next_inj.mp hk
    exact .ret (by simp) ((KeepsControl.withAcc _ _).trans (.tick _ _))
  | jmp addr =>
    obtain ⟨-, hk⟩ := withTarget_next.mp h
    obtain rfl := next_inj.mp hk
    exact .data ((KeepsControl.withPc _ _).trans (.tick _ _))
  | call addr =>
    obtain ⟨-, hk⟩ := withTarget_next.mp h
    obtain rfl := next_inj.mp hk
    exact .call addr rfl ((KeepsControl.withPc _ _).trans (.tick _ _))
  | addAM | adcAM | subAM | sbcAM | andAM | orAM | xorAM | cpla | inca | deca | rra | rrca | rla | rlca
  | movAM | swapa =>
    exact .data (loadOp_keepsControl h)
  | addAX | subAX | andAX | orAX | xorAX | movAX => exact .data (immediateOp_keepsControl h)
  | addm | adcm | subm | sbcm | andm | orm | xorm | cpl | inc | dec | rr | rrc | rl | rlc | swap | setBit | clrBit =>
    exact .data (storeResult_keepsControl (modifyOp_next.mp h).2)
  | movMemA | daa | clrM | setM => exact .data (storeResult_keepsControl (storeOp_next.mp h).2)
  | sz | szBit | snzBit => exact .data (testSkip_keepsControl h)
  | sza | siza | sdza => exact .data (loadSkip_keepsControl h)
  | siz | sdz => exact .data (modifySkip_keepsControl h)
  | tabrdc m => exact .table m _ (.inl rfl) (tableRead_keepsControl h)
  | tabrdl m => exact .table m _ (.inr rfl) (tableRead_keepsControl h)

/-- CALL and the three returns. -/
def usesStack (i : Instr) : Prop := (∃ addr, i = .call addr) ∨ i = .ret ∨ i = .reti ∨ ∃ x, i = .retAX x

/-- For each control register, the instructions that may change it: any other leaves it. -/
structure ControlFrame (i : Instr) (s t : State) : Prop where
  inputs : t.inputs = s.inputs
  halted : i ≠ .halt → t.halted = s.halted
  tblh : (∀ m, ¬(i = .tabrdc m ∨ i = .tabrdl m)) → t.tblh = s.tblh
  stk : (∀ addr, i ≠ .call addr) → t.stk = s.stk
  stkv : ¬usesStack i → t.stkv = s.stkv
  flagTO : i ≠ .halt → ¬ClearsWatchdog i s → t.flagTO = s.flagTO
  flagPD : i ≠ .halt → ¬ClearsWatchdog i s → t.flagPD = s.flagPD

theorem exec_frame {i : Instr} {s t : State} (h : exec i s = .next t) : ControlFrame i s t := by
  cases exec_effect h with
  | data k =>
    exact ⟨k.inputs, fun _ => k.halted, fun _ => k.tblh, fun _ => k.stk, fun _ => k.stkv, fun _ _ => k.flagTO,
      fun _ _ => k.flagPD⟩
  | table m v hi k =>
    exact ⟨k.inputs, fun _ => k.halted, fun hn => absurd hi (hn m), fun _ => k.stk, fun _ => k.stkv, fun _ _ => k.flagTO,
      fun _ _ => k.flagPD⟩
  | call addr hi k =>
    exact ⟨k.inputs, fun _ => k.halted, fun _ => k.tblh, fun hn => absurd hi (hn addr),
      fun hn => absurd (.inl ⟨addr, hi⟩) hn, fun _ _ => k.flagTO, fun _ _ => k.flagPD⟩
  | ret hi k =>
    exact ⟨k.inputs, fun _ => k.halted, fun _ => k.tblh, fun _ => k.stk, fun hn => absurd (.inr hi) hn, fun _ _ => k.flagTO,
      fun _ _ => k.flagPD⟩
  | halt hi ht =>
    subst ht
    exact ⟨rfl, fun hn => absurd hi hn, fun _ => rfl, fun _ => rfl, fun _ => rfl, fun hn => absurd hi hn,
      fun hn => absurd hi hn⟩
  | clear hc ht =>
    obtain rfl | rfl := ht
    all_goals
      exact ⟨rfl, fun _ => rfl, fun _ => rfl, fun _ => rfl, fun _ => rfl, fun _ hn => absurd hc hn,
        fun _ hn => absurd hc hn⟩
  | mark hen htimes ht =>
    obtain ⟨-, rfl⟩ | ⟨-, rfl⟩ := ht
    all_goals exact ⟨rfl, fun _ => rfl, fun _ => rfl, fun _ => rfl, fun _ => rfl, fun _ _ => rfl, fun _ _ => rfl⟩

/-! ## The boundary -/

/-- The event of the coming boundary is in the environment's list, which no instruction changes. -/
theorem currentInput_event_congr {s t : State} (h : t.inputs = s.inputs) : t.currentInput.event = s.currentInput.event := by
  unfold State.currentInput
  rw [h]
  cases s.inputs <;> rfl

section Boundary

variable (s : State)

theorem boundary_tblh_stk :
    (∃ u, s.currentInput.event = some (.powerOn u)) ∨ (s.boundary.tblh = s.tblh ∧ s.boundary.stk = s.stk) := by
  obtain ⟨u, hev, -⟩ | ⟨-, hb⟩ | ⟨-, -, hb⟩ | ⟨-, -, -, -, hb⟩ | ⟨-, -, -, hb⟩ := boundary_cases s
  · exact .inl ⟨u, hev⟩
  · refine .inr ?_
    rw [hb]
    cases s.halted <;> exact ⟨rfl, rfl⟩
  all_goals exact .inr (by rw [hb]; exact ⟨rfl, rfl⟩)

/-- A boundary moves the stack mark by a reset only, which clears it. -/
theorem boundary_stkv :
    s.boundary.stkv = s.stkv ∨
    (s.boundary.stkv = false ∧
      ((∃ u, s.currentInput.event = some (.powerOn u)) ∨ s.currentInput.event = some .resLow ∨
        s.watchdogExpired = true)) := by
  obtain ⟨u, hev, hb⟩ | ⟨hev, hb⟩ | ⟨-, hexp, hb⟩ | ⟨-, -, -, -, hb⟩ | ⟨-, -, -, hb⟩ := boundary_cases s
  · exact .inr ⟨by rw [hb]; rfl, .inl ⟨u, hev⟩⟩
  · refine .inr ⟨?_, .inr (.inl hev)⟩
    rw [hb]
    cases s.halted <;> rfl
  · exact .inr ⟨by rw [hb]; rfl, .inr (.inr hexp)⟩
  all_goals exact .inl (by rw [hb]; rfl)

/-- A boundary stops no core. -/
theorem halted_of_boundary_halted (h : s.boundary.halted = true) : s.halted = true := by
  obtain ⟨u, -, hb⟩ | ⟨-, hb⟩ | ⟨-, -, hb⟩ | ⟨-, -, -, -, hb⟩ | ⟨-, -, -, hb⟩ := boundary_cases s
  · rw [hb] at h; cases h
  · cases hs : s.halted
    · rw [hb, hs] at h; cases h
    · rfl
  · rw [hb] at h; cases h
  · rw [hb] at h; cases h
  · rw [hb] at h; exact h

/-- TO and PD after a boundary, event by event (R35, R262). -/
theorem boundary_flagTO_flagPD :
    (s.boundary.flagTO, s.boundary.flagPD) =
      match s.currentInput.event with
      | some (.powerOn _) => (false, false)
      | some .resLow => if s.halted = true then (false, true) else (s.flagTO, s.flagPD)
      | none =>
        if s.cfg.wdtEn = true ∧ s.halted = false ∧ 2 ^ s.cfg.wdtN.toNat ≤ s.wdt then (true, s.flagPD)
        else (s.flagTO, s.flagPD) := by
  simp only [← watchdogExpired_iff]
  obtain ⟨u, hev, hb⟩ | ⟨hev, hb⟩ | ⟨hev, hexp, hb⟩ | ⟨hev, hexp, -, -, hb⟩ | ⟨hev, hexp, -, hb⟩ := boundary_cases s
  · simp [hev, hb, State.takeReset]
  · cases hs : s.halted <;> simp [hev, hb, hs, State.takeReset]
  · simp [hev, hb, hexp, State.takeReset]
  · simp [hev, hb, hexp]
  · simp [hev, hb, hexp]

end Boundary

/-! ## Every step -/

/-- Settles O51: every instruction and every boundary keeps both. -/
theorem stepKeepsRomAndOptions : Obligations.StepKeepsRomAndOptions := fun _ _ => step_keeps_rom_cfg

/-- Settles O52: through the instruction and the boundary TBLH stays, but for a table read and a power-on. -/
theorem onlyTableReadsChangeTblh : Obligations.OnlyTableReadsChangeTblh := by
  intro s t hstep hne
  obtain ⟨-, rfl⟩ | ⟨hrun, i, u, hfetch, hexec, rfl⟩ := step_next.mp hstep
  · exact (boundary_tblh_stk s).imp_right fun h => absurd h.1 hne
  · have hframe := exec_frame hexec
    obtain hpower | ⟨hb, -⟩ := boundary_tblh_stk u
    · rw [currentInput_event_congr hframe.inputs] at hpower
      exact .inl hpower
    · refine .inr ⟨hrun, ?_⟩
      by_contra hno
      push Not at hno
      refine hne (hb.trans (hframe.tblh fun m hi => ?_))
      obtain rfl | rfl := hi
      · exact (hno m).1 hfetch
      · exact (hno m).2 hfetch

/-- Settles O54: the boundary stops no core, and of the instructions only HALT does. -/
theorem onlyHaltStopsTheCore : Obligations.OnlyHaltStopsTheCore := by
  intro s t hstep hrun hhalted
  obtain ⟨hs, -⟩ | ⟨-, i, u, hfetch, hexec, rfl⟩ := step_next.mp hstep
  · rw [hs] at hrun; cases hrun
  · have hu : u.halted = true := halted_of_boundary_halted u hhalted
    by_contra hno
    have hkeep := (exec_frame hexec).halted fun hi => hno (hi ▸ hfetch)
    rw [hu, State.advance_halted, hrun] at hkeep
    cases hkeep

/-- Settles O55: an instruction by its frame, then a step of instruction and boundary. -/
theorem onlyCallsAndReturnsUseTheStack : Obligations.OnlyCallsAndReturnsUseTheStack := by
  constructor
  · intro i s t hexec
    have hframe := exec_frame hexec
    constructor
    · intro hne
      by_contra hno
      push Not at hno
      exact hne (hframe.stk hno)
    · intro hne
      by_contra hno
      exact hne (hframe.stkv hno)
  · intro s t hstep
    obtain ⟨hhalted, rfl⟩ | ⟨hrun, i, u, hfetch, hexec, rfl⟩ := step_next.mp hstep
    · constructor
      · exact fun hne => (boundary_tblh_stk s).imp_right fun h => absurd h.2 hne
      · intro hne
        obtain hb | ⟨hb, hpower | hres | hexp⟩ := boundary_stkv s
        · exact absurd hb hne
        · exact .inr ⟨hb, .inl hpower⟩
        · exact .inr ⟨hb, .inr (.inl hres)⟩
        · rw [watchdogExpired_iff, hhalted] at hexp
          cases hexp.2.1
    · have hframe := exec_frame hexec
      have hev := currentInput_event_congr hframe.inputs
      constructor
      · intro hne
        obtain hpower | ⟨-, hb⟩ := boundary_tblh_stk u
        · exact .inl (by rwa [hev] at hpower)
        · refine .inr ⟨hrun, ?_⟩
          by_contra hno
          push Not at hno
          exact hne (hb.trans (hframe.stk fun addr hi => hno addr (hi ▸ hfetch)))
      · intro hne
        obtain hb | ⟨hb, hpower | hres | hexp⟩ := boundary_stkv u
        · refine .inl ⟨hrun, ?_⟩
          have huses : usesStack i := by
            by_contra hno
            exact hne (hb.trans (hframe.stkv hno))
          obtain ⟨addr, rfl⟩ | rfl | rfl | ⟨x, rfl⟩ := huses
          · exact .inl ⟨addr, hfetch⟩
          · exact .inr (.inl hfetch)
          · exact .inr (.inr (.inl hfetch))
          · exact .inr (.inr (.inr ⟨x, hfetch⟩))
        · exact .inr ⟨hb, .inl (by rwa [hev] at hpower)⟩
        · exact .inr ⟨hb, .inr (.inl (by rwa [hev] at hres))⟩
        · obtain ⟨hen, -, hcount⟩ := watchdogExpired_iff.mp hexp
          have hcfg : u.cfg = s.cfg := (exec_keeps_rom_cfg hexec).2
          rw [hcfg] at hen hcount
          exact .inr ⟨hb, .inr (.inr ⟨hrun, hen, i, u, hfetch, hexec, hcount⟩)⟩

end Sys2Proof.Machine
end

section
/-! TO and PD (`10_state.md` R35), PC (R23), and the invariant of the machine between steps. -/

namespace Sys2Proof.Machine

/-! ## TO and PD -/

section ToPd

variable {i : Instr} {s t : State}

theorem exec_of_clearsWatchdog (h : exec i s = .next t) (hc : ClearsWatchdog i s) :
    t = s.clearWatchdog ∨ t = s.clearWatchdog.clearMarks := by
  obtain ⟨hen, ⟨rfl, htimes⟩ | ⟨rfl, htimes, hw⟩ | ⟨rfl, htimes, hw⟩⟩ := hc
  · obtain ⟨hdis, -⟩ | ⟨-, -, ht⟩ := execClrWdt_next.mp h
    · rw [hen] at hdis; cases hdis
    · exact .inl ht
  · obtain ⟨hdis, -⟩ | ⟨-, -, ht⟩ := execClrWdt1_next.mp h
    · rw [hen] at hdis; cases hdis
    · exact .inr (by rw [ht, if_pos hw])
  · obtain ⟨hdis, -⟩ | ⟨-, -, ht⟩ := execClrWdt2_next.mp h
    · rw [hen] at hdis; cases hdis
    · exact .inr (by rw [ht, if_pos hw])

theorem exec_clears_flagTO_flagPD (h : exec i s = .next t) (hc : ClearsWatchdog i s) :
    t.flagTO = false ∧ t.flagPD = false := by
  obtain rfl | rfl := exec_of_clearsWatchdog h hc
  all_goals exact ⟨rfl, rfl⟩

/-- What a boundary that changes TO or PD can be; a time-out also starts the program anew. -/
theorem boundary_flags_cases (s : State) :
    ((∃ u, s.currentInput.event = some (.powerOn u)) ∧ s.boundary.flagTO = false ∧ s.boundary.flagPD = false) ∨
    (s.currentInput.event = some .resLow ∧ s.halted = true ∧ s.boundary.flagTO = false ∧ s.boundary.flagPD = true) ∨
    (s.currentInput.event = none ∧ s.watchdogExpired = true ∧ s.boundary.flagTO = true ∧ s.boundary.flagPD = s.flagPD ∧
      s.boundary.pc = 0x000#10) ∨
    (s.boundary.flagTO = s.flagTO ∧ s.boundary.flagPD = s.flagPD) := by
  obtain ⟨u, hev, hb⟩ | ⟨hev, hb⟩ | ⟨hev, hexp, hb⟩ | ⟨-, -, -, -, hb⟩ | ⟨-, -, -, hb⟩ := boundary_cases s
  · exact .inl ⟨⟨u, hev⟩, by rw [hb]; exact ⟨rfl, rfl⟩⟩
  · cases hs : s.halted
    · exact .inr (.inr (.inr (by rw [hb, hs]; exact ⟨rfl, rfl⟩)))
    · exact .inr (.inl ⟨hev, rfl, by rw [hb, hs]; exact ⟨rfl, rfl⟩⟩)
  · exact .inr (.inr (.inl ⟨hev, hexp, by rw [hb]; exact ⟨rfl, rfl, rfl⟩⟩))
  all_goals exact .inr (.inr (.inr (by rw [hb]; exact ⟨rfl, rfl⟩)))

/-- Neither HALT nor a clearing of the watchdog leaves a count that times out at the boundary after it. -/
theorem not_expired_after (h : exec i s = .next t) (hi : i = .halt ∨ ClearsWatchdog i s) : t.watchdogExpired = false := by
  rw [watchdogExpired_eq_false_iff]
  obtain rfl | hc := hi
  · obtain rfl := next_inj.mp h
    exact .inr (.inl rfl)
  · obtain rfl | rfl := exec_of_clearsWatchdog h hc
    all_goals exact .inl (Nat.two_pow_pos _)

end ToPd

/-- Settles O53: TO and PD through an instruction and through a boundary, then through a step of both. -/
theorem onlyTheseEventsChangeToAndPd : Obligations.OnlyTheseEventsChangeToAndPd := by
  refine ⟨fun s t hstep hne => ?_, fun i s t hexec => ?_, boundary_flagTO_flagPD, fun addr s t hexec => ?_⟩
  · obtain ⟨hhalted, rfl⟩ | ⟨hrun, i, u, hfetch, hexec, rfl⟩ := step_next.mp hstep
    · obtain hpower | ⟨hev, hs, hflags⟩ | ⟨-, hexp, -⟩ | ⟨hTO, hPD⟩ := boundary_flags_cases s
      · exact .inl hpower
      · exact .inr (.inl ⟨hev, hs, hflags⟩)
      · rw [watchdogExpired_iff, hhalted] at hexp
        cases hexp.2.1
      · exact absurd hne (by simp [hTO, hPD])
    · have hframe := exec_frame hexec
      have hev' := currentInput_event_congr hframe.inputs
      have hcfg : u.cfg = s.cfg := (exec_keeps_rom_cfg hexec).2
      obtain ⟨hpower, hflags⟩ | ⟨-, hu, hflags⟩ | ⟨hev, hexp, hTO, hPD, hpc⟩ | ⟨hTO, hPD⟩ := boundary_flags_cases u
      · exact .inl ⟨by rwa [hev'] at hpower, hflags⟩
      · by_cases hi : i = .halt
        · exact .inr (.inr (.inr (.inl ⟨hrun, hi ▸ hfetch, hflags⟩)))
        · rw [hframe.halted hi, State.advance_halted, hrun] at hu
          cases hu
      · obtain ⟨hen, -, hcount⟩ := watchdogExpired_iff.mp hexp
        rw [hcfg] at hen hcount
        have hother : ¬(i = .halt ∨ ClearsWatchdog i s.advance) := fun hi => by
          rw [not_expired_after hexec hi] at hexp
          cases hexp
        obtain ⟨hi, hc⟩ := not_or.mp hother
        exact .inr (.inr (.inl ⟨by rwa [hev'] at hev, hrun, hen, ⟨i, u, hfetch, hexec, hcount⟩, hTO,
          hPD.trans (hframe.flagPD hi hc), hpc⟩))
      · rw [hTO, hPD] at hne ⊢
        by_cases hi : i = .halt
        · subst hi
          obtain rfl := next_inj.mp hexec
          exact .inr (.inr (.inr (.inl ⟨hrun, hfetch, rfl, rfl⟩)))
        · by_cases hc : ClearsWatchdog i s
          · exact .inr (.inr (.inr (.inr ⟨hrun, ⟨i, hfetch, hc⟩, exec_clears_flagTO_flagPD hexec hc⟩)))
          · exact absurd hne (by simp [hframe.flagTO hi hc, hframe.flagPD hi hc])
  · refine ⟨?_, exec_clears_flagTO_flagPD hexec, fun hi hc => ?_⟩
    · rintro rfl
      obtain rfl := next_inj.mp hexec
      exact ⟨rfl, rfl⟩
    · exact ⟨(exec_frame hexec).flagTO hi hc, (exec_frame hexec).flagPD hi hc⟩
  · obtain hcall | hret := hexec
    · dsimp only [exec, execCall] at hcall
      obtain ⟨-, hk⟩ := withTarget_next.mp hcall
      obtain rfl := next_inj.mp hk
      rfl
    · dsimp only [exec, execRet] at hret
      obtain ⟨-, hk⟩ := withReturn_next.mp hret
      obtain rfl := next_inj.mp hk
      rfl

/-! ## The invariant -/

/-- What an instruction leaves of the invariant: all but the count below its period, which the boundary restores. -/
structure State.AfterInstruction (s : State) : Prop where
  memory : s.MemoryOk
  disabled : s.cfg.wdtEn = false → s.wdt = 0 ∧ s.flagTO = false ∧ s.w1 = false ∧ s.w2 = false
  single : s.cfg.clrWdtTimes = .one → s.w1 = false ∧ s.w2 = false
  marks : s.w1 = false ∨ s.w2 = false
  halt : s.HaltOk

theorem State.Inv.afterInstruction {s : State} (h : s.Inv) : s.AfterInstruction := by
  obtain ⟨hmem, ⟨-, hdis, hone, hmarks⟩, hhalt⟩ := h
  exact ⟨hmem, hdis, hone, hmarks, hhalt⟩

theorem State.AfterInstruction.advance {s : State} (h : s.AfterInstruction) : s.advance.AfterInstruction :=
  ⟨h.memory, h.disabled, h.single, h.marks, h.halt⟩

/-- An operation on other registers keeps it, of a running core. -/
theorem KeepsControl.afterInstruction {s t : State} (k : KeepsControl s t) (hrom : t.rom = s.rom) (hrun : s.halted = false)
    (h : s.AfterInstruction) : t.AfterInstruction where
  memory := ⟨k.ram h.memory.1, by rw [hrom]; exact h.memory.2⟩
  disabled hen := by
    rw [k.cfg] at hen
    rw [k.wdt hen, k.flagTO, k.w1, k.w2]
    exact h.disabled hen
  single htimes := by
    rw [k.cfg] at htimes
    rw [k.w1, k.w2]
    exact h.single htimes
  marks := by
    rw [k.w1, k.w2]
    exact h.marks
  halt hhalted := by
    rw [k.halted, hrun] at hhalted
    cases hhalted

theorem exec_afterInstruction {i : Instr} {s t : State} (hexec : exec i s = .next t) (hrun : s.halted = false)
    (h : s.AfterInstruction) : t.AfterInstruction := by
  have hrom := (exec_keeps_rom_cfg hexec).1
  have hnot : s.halted ≠ true := by simp [hrun]
  cases exec_effect hexec with
  | data k => exact k.afterInstruction hrom hrun h
  | table m v hi k => exact k.afterInstruction hrom hrun ⟨h.memory, h.disabled, h.single, h.marks, h.halt⟩
  | call addr hi k => exact k.afterInstruction hrom hrun ⟨h.memory, h.disabled, h.single, h.marks, h.halt⟩
  | ret hi k => exact k.afterInstruction hrom hrun ⟨h.memory, h.disabled, h.single, h.marks, h.halt⟩
  | halt hi ht =>
    subst ht
    exact ⟨h.memory, fun _ => ⟨rfl, rfl, rfl, rfl⟩, fun _ => ⟨rfl, rfl⟩, .inl rfl, fun _ => ⟨rfl, rfl, rfl, rfl, rfl⟩⟩
  | clear hc ht =>
    obtain rfl | rfl := ht
    · exact ⟨h.memory, fun hen => ⟨rfl, rfl, (h.disabled hen).2.2⟩, h.single, h.marks, fun hh => absurd hh hnot⟩
    · exact ⟨h.memory, fun _ => ⟨rfl, rfl, rfl, rfl⟩, fun _ => ⟨rfl, rfl⟩, .inl rfl, fun hh => absurd hh hnot⟩
  | mark hen htimes ht =>
    have hdis : s.cfg.wdtEn ≠ false := by simp [hen]
    have hone : s.cfg.clrWdtTimes ≠ .one := by simp [htimes]
    obtain ⟨hw, rfl⟩ | ⟨hw, rfl⟩ := ht
    · exact ⟨h.memory, fun hd => absurd hd hdis, fun ho => absurd ho hone, .inr hw, fun hh => absurd hh hnot⟩
    · exact ⟨h.memory, fun hd => absurd hd hdis, fun ho => absurd ho hone, .inl hw, fun hh => absurd hh hnot⟩

/-- Every reset leaves the invariant, if its memories are in order and it does not set TO with the watchdog disabled. -/
theorem inv_takeReset {s : State} {kind : ResetKind} (hmem : (s.takeReset kind).MemoryOk)
    (hTO : s.cfg.wdtEn = false → (s.takeReset kind).flagTO = false) : (s.takeReset kind).Inv := by
  obtain ⟨⟨-, -, hwdt, hw1, hw2, hhalted, -, -, -, hcfg, -⟩, -⟩ := resetTransition kind s
  refine ⟨hmem, ⟨fun _ => ?_, fun hen => ⟨hwdt, hTO (hcfg ▸ hen), hw1, hw2⟩, fun _ => ⟨hw1, hw2⟩, .inl hw1⟩, fun hh => ?_⟩
  · rw [hwdt]
    exact Nat.two_pow_pos _
  · rw [hhalted] at hh
    cases hh

theorem boundary_inv {s : State} (h : s.AfterInstruction) : s.boundary.Inv := by
  obtain ⟨u, hev, hb⟩ | ⟨hev, hb⟩ | ⟨hev, hexp, hb⟩ | ⟨hev, hexp, hh, -, hb⟩ | ⟨hev, hexp, -, hb⟩ := boundary_cases s
  all_goals rw [hb]
  · exact inv_takeReset ⟨Memory.wf_fill u.ram (Nat.le_refl _) rfl, h.memory.2⟩ fun _ => rfl
  · cases s.halted
    · exact inv_takeReset h.memory fun hen => (h.disabled hen).2.1
    · exact inv_takeReset h.memory fun _ => rfl
  · obtain ⟨hen, -, -⟩ := watchdogExpired_iff.mp hexp
    exact inv_takeReset h.memory fun hdis => absurd hen (by simpa using hdis)
  · obtain ⟨-, -, hwdt, -, -⟩ := h.halt hh
    exact ⟨h.memory, ⟨fun _ => hwdt ▸ Nat.two_pow_pos _, h.disabled, h.single, h.marks⟩, nofun⟩
  · refine ⟨h.memory, ⟨fun hen => ?_, h.disabled, h.single, h.marks⟩, h.halt⟩
    obtain hlt | hh | hdis := watchdogExpired_eq_false_iff.mp hexp
    · exact hlt
    · obtain ⟨-, -, hwdt, -, -⟩ := h.halt hh
      exact hwdt ▸ Nat.two_pow_pos _
    · exact absurd hen (by simp [hdis])

/-- Settles O49: an instruction keeps everything but the count below its period, and the boundary restores that. -/
theorem stepKeepsInvariant : Obligations.StepKeepsInvariant := by
  intro s t hinv hstep
  obtain ⟨-, rfl⟩ | ⟨hrun, i, u, -, hexec, rfl⟩ := step_next.mp hstep
  · exact boundary_inv hinv.afterInstruction
  · have hs : s.advance.AfterInstruction := hinv.afterInstruction.advance
    exact boundary_inv (exec_afterInstruction hexec hrun hs)

end Sys2Proof.Machine
end

section
/-! The ways an instruction changes PC (`10_state.md` R23), and the instructions that are refused
(`95_test_vectors.md` B14). -/

namespace Sys2Proof.Machine

/-! ## PC through the shapes of instruction -/

section Pc

variable {s t : State} {m : MField}

/-- PC is one further, modulo 1024. -/
abbrev SkippedPc (s t : State) : Prop := t.pc.toNat = (s.pc.toNat + 1) % 1024

/-- PCL was loaded: the write went to its address, and the page is the old one (R24). -/
abbrev LoadedPcl (a : DAddr) (s t : State) : Prop := a = 0x06#6 ∧ t.pc.toNat / 256 = s.pc.toNat / 256

theorem skipIf_pc_cases (s : State) (b : Bool) : (s.skipIf b).pc = s.pc ∨ SkippedPc s (s.skipIf b) := by
  cases b
  · exact .inl rfl
  · exact .inr (BitVec.toNat_add s.pc 1#10)

theorem dwrite_pc_cases (s : State) (a : DAddr) (v : Byte) : (dwrite s a v).pc = s.pc ∨ LoadedPcl a s (dwrite s a v) := by
  have hpc := dwrite_pc s a v
  split at hpc
  · have hv := v.isLt
    refine .inr ⟨‹_›, ?_⟩
    rw [hpc, toNat_page_append]
    omega
  · exact .inl hpc

theorem loadOp_pc {op : Byte → AluResult} (h : loadOp m s op = .next t) : t.pc = s.pc := by
  obtain ⟨-, rfl⟩ := loadOp_next.mp h
  rfl

theorem immediateOp_pc {r : AluResult} (h : immediateOp s r = .next t) : t.pc = s.pc := by
  obtain rfl := immediateOp_next.mp h
  rfl

theorem storeResult_pc {a : DAddr} {r : AluResult} (h : storeResult s a r = .next t) :
    t.pc = s.pc ∨ LoadedPcl a s t := by
  obtain ⟨-, rfl⟩ := storeResult_next.mp h
  exact dwrite_pc_cases (s.withFlags r.flags) a r.value

theorem tableRead_pc {x : PAddr} (h : tableRead m s x = .next t) :
    t.pc = s.pc ∨ LoadedPcl (effectiveAddress m s) s t := by
  obtain ⟨-, rfl⟩ := tableRead_next.mp h
  exact dwrite_pc_cases (s.withTblh _) _ _

theorem testSkip_pc {p : Byte → Bool} (h : testSkip m s p = .next t) : t.pc = s.pc ∨ SkippedPc s t := by
  obtain ⟨-, rfl⟩ := testSkip_next.mp h
  exact skipIf_pc_cases s _

theorem loadSkip_pc {f : Byte → Byte} (h : loadSkip m s f = .next t) : t.pc = s.pc ∨ SkippedPc s t := by
  obtain ⟨-, rfl⟩ := loadSkip_next.mp h
  exact skipIf_pc_cases (s.withAcc _) _

/-- SIZ and SDZ never do both: a write to PCL with a skip is refused (D11). -/
theorem modifySkip_pc {f : Byte → Byte} (h : modifySkip m s f = .next t) :
    t.pc = s.pc ∨ SkippedPc s t ∨ LoadedPcl (effectiveAddress m s) s t := by
  obtain ⟨-, hnot, rfl⟩ := modifySkip_next.mp h
  by_cases hz : f (dread s (effectiveAddress m s)) = 0#8
  · have ha : effectiveAddress m s ≠ 0x06#6 := fun ha => hnot ⟨ha, hz⟩
    have hpc : ∀ v, (dwrite s (effectiveAddress m s) v).pc = s.pc := fun v => by rw [dwrite_pc, if_neg ha]
    have hskip := skipIf_pc_cases (dwrite s (effectiveAddress m s) (f (dread s (effectiveAddress m s))))
      (decide (f (dread s (effectiveAddress m s)) = 0#8))
    unfold SkippedPc at hskip
    rw [hpc] at hskip
    exact hskip.imp_right .inl
  · rw [decide_eq_false hz]
    exact (dwrite_pc_cases s (effectiveAddress m s) _).imp_right .inr

end Pc

/-- Settles O56: each shape leaves PC, skips by one, or writes PCL; the jumps and returns load it. -/
theorem waysToChangePc : Obligations.WaysToChangePc := by
  intro i s t h hne
  cases i with dsimp only [exec] at h
  | nop | halt =>
    obtain rfl := next_inj.mp h
    exact absurd rfl hne
  | clrWdt =>
    obtain ⟨-, rfl⟩ | ⟨-, -, rfl⟩ := execClrWdt_next.mp h
    all_goals exact absurd rfl hne
  | clrWdt1 =>
    obtain ⟨-, rfl⟩ | ⟨-, -, rfl⟩ := execClrWdt1_next.mp h
    · exact absurd rfl hne
    · split at hne <;> exact absurd rfl hne
  | clrWdt2 =>
    obtain ⟨-, rfl⟩ | ⟨-, -, rfl⟩ := execClrWdt2_next.mp h
    · exact absurd rfl hne
    · split at hne <;> exact absurd rfl hne
  | ret | reti | retAX =>
    obtain ⟨-, hk⟩ := withReturn_next.mp h
    obtain rfl := next_inj.mp hk
    exact .inr (.inl ⟨by simp, rfl⟩)
  | jmp addr | call addr =>
    obtain ⟨hrange, hk⟩ := withTarget_next.mp h
    obtain rfl := next_inj.mp hk
    refine .inl ⟨addr, by simp, (toNat_extractLsb'_zero 10 addr).trans (Nat.mod_eq_of_lt (by omega))⟩
  | addAM | adcAM | subAM | sbcAM | andAM | orAM | xorAM | cpla | inca | deca | rra | rrca | rla | rlca
  | movAM | swapa =>
    exact absurd (loadOp_pc h) hne
  | addAX | subAX | andAX | orAX | xorAX | movAX => exact absurd (immediateOp_pc h) hne
  | addm m | adcm m | subm m | sbcm m | andm m | orm m | xorm m | cpl m | inc m | dec m | rr m | rrc m | rl m | rlc m
  | swap m | setBit m | clrBit m =>
    obtain hpc | hpcl := storeResult_pc (modifyOp_next.mp h).2
    · exact absurd hpc hne
    · exact .inr (.inr (.inr ⟨m, rfl, hpcl⟩))
  | movMemA m | daa m | clrM m | setM m =>
    obtain hpc | hpcl := storeResult_pc (storeOp_next.mp h).2
    · exact absurd hpc hne
    · exact .inr (.inr (.inr ⟨m, rfl, hpcl⟩))
  | tabrdc m | tabrdl m =>
    obtain hpc | hpcl := tableRead_pc h
    · exact absurd hpc hne
    · exact .inr (.inr (.inr ⟨m, rfl, hpcl⟩))
  | sz | szBit | snzBit =>
    obtain hpc | hskip := testSkip_pc h
    · exact absurd hpc hne
    · exact .inr (.inr (.inl ⟨rfl, hskip⟩))
  | sza | siza | sdza =>
    obtain hpc | hskip := loadSkip_pc h
    · exact absurd hpc hne
    · exact .inr (.inr (.inl ⟨rfl, hskip⟩))
  | siz m | sdz m =>
    obtain hpc | hskip | hpcl := modifySkip_pc h
    · exact absurd hpc hne
    · exact .inr (.inr (.inl ⟨rfl, hskip⟩))
    · exact .inr (.inr (.inr ⟨m, rfl, hpcl⟩))

/-! ## Refusals: the shapes -/

section Refusals

variable {s : State} {m : MField} {r : Refusal}

theorem withTarget_refused {addr : AddrField} {f : PAddr → State} :
    (withTarget addr fun a => .next (f a)) = .refused r ↔ targetRefusal addr = some r := by
  unfold withTarget targetRefusal
  by_cases h : addr.toNat ≤ 0x3FF
  · simp [h, Nat.not_lt.mpr h]
  · simp [h, Nat.not_le.mp h]

theorem withReturn_refused {f : State → State} :
    (withReturn s fun t => .next (f t)) = .refused r ↔ returnRefusal s = some r := by
  unfold withReturn returnRefusal
  cases s.stkv <;> simp

theorem execClrWdt_refused : execClrWdt s = .refused r ↔ groupRefusal .one s = some r := by
  unfold execClrWdt groupRefusal
  cases s.cfg.wdtEn <;> cases s.cfg.clrWdtTimes <;> simp

theorem execClrWdt1_refused : execClrWdt1 s = .refused r ↔ groupRefusal .two s = some r := by
  unfold execClrWdt1 groupRefusal
  cases s.cfg.wdtEn <;> cases s.cfg.clrWdtTimes <;> cases s.w2 <;> simp

theorem execClrWdt2_refused : execClrWdt2 s = .refused r ↔ groupRefusal .two s = some r := by
  unfold execClrWdt2 groupRefusal
  cases s.cfg.wdtEn <;> cases s.cfg.clrWdtTimes <;> cases s.w1 <;> simp

theorem operandRefusal_eq_some {k : DAddr → Option Refusal} :
    operandRefusal m s k = some r ↔
      (0x3F < m.toNat ∧ r = .dataAddressAbove3FH) ∨ (m.toNat ≤ 0x3F ∧ k (effectiveAddress m s) = some r) := by
  unfold operandRefusal
  by_cases h : 0x3F < m.toNat
  · simp [h, Nat.not_le.mpr h, eq_comm]
  · simp [h, Nat.not_lt.mp h]

/-- An `[m]` instruction without further conditions. -/
theorem operandRefusal_none_eq_some :
    (operandRefusal m s fun _ => none) = some r ↔ 0x3F < m.toNat ∧ r = .dataAddressAbove3FH := by
  simp [operandRefusal_eq_some]

theorem statusRefusal_eq_some :
    statusRefusal m s = some r ↔
      (0x3F < m.toNat ∧ r = .dataAddressAbove3FH) ∨
      (m.toNat ≤ 0x3F ∧ effectiveAddress m s = 0x0A#6 ∧ r = .flagWriteToStatus) := by
  rw [statusRefusal, operandRefusal_eq_some]
  split <;> simp_all [eq_comm]

theorem modifyOp_noFlags_refused {f : Byte → Byte} :
    modifyOp m s (fun b => noFlags (f b)) = .refused r ↔ (operandRefusal m s fun _ => none) = some r := by
  rw [operandRefusal_none_eq_some, modifyOp_refused]
  simp [noFlags, FlagWrites.any]

theorem storeOp_noFlags_refused {v : Byte} :
    storeOp m s (noFlags v) = .refused r ↔ (operandRefusal m s fun _ => none) = some r := by
  rw [operandRefusal_none_eq_some, storeOp_refused]
  simp [noFlags, FlagWrites.any]

theorem modifyOp_flags_refused {op : Byte → AluResult} (hop : ∀ b, (op b).flags.any = true) :
    modifyOp m s op = .refused r ↔ statusRefusal m s = some r := by
  rw [statusRefusal_eq_some, modifyOp_refused]
  simp [hop]

theorem storeOp_flags_refused {x : AluResult} (hx : x.flags.any = true) :
    storeOp m s x = .refused r ↔ statusRefusal m s = some r := by
  rw [statusRefusal_eq_some, storeOp_refused]
  simp [hx]

/-- At PCL the byte read is PC[7:0]. -/
theorem modifySkip_refused_iff {f : Byte → Byte} {last : Nat} (hf : ∀ v, f v = 0#8 ↔ v.toNat = last) :
    modifySkip m s f = .refused r ↔ skipRefusal m s last = some r := by
  have hpcl : dread s 0x06#6 = s.pc.extractLsb' 0 8 := rfl
  rw [modifySkip_refused, skipRefusal, operandRefusal_eq_some]
  refine or_congr_right (and_congr_right fun _ => ?_)
  by_cases ha : effectiveAddress m s = 0x06#6
  · rw [ha, hpcl, hf, toNat_extractLsb'_zero, show 2 ^ 8 = 256 from rfl]
    by_cases hlast : s.pc.toNat % 256 = last
    · simp only [hlast, and_self, true_and, if_true, Option.some.injEq, eq_comm (a := r)]
    · simp only [hlast, and_false, false_and, if_false, reduceCtorEq]
  · simp [ha]

theorem inc8_eq_zero_iff (v : Byte) : inc8 v = 0#8 ↔ v.toNat = 0xFF := by
  rw [← toNat_eq_zero_iff, toNat_inc8]
  omega

theorem dec8_eq_zero_iff (v : Byte) : dec8 v = 0#8 ↔ v.toNat = 0x01 := by
  rw [← toNat_eq_zero_iff, toNat_dec8]
  omega

end Refusals

/-- Settles O47: shape by shape, `exec` and the collected table give the same refusals. -/
theorem refusalsAreTheListedOnes : Obligations.RefusalsAreTheListedOnes := by
  intro i s r
  cases i with dsimp only [exec, refusalOf]
  | nop | halt => exact iff_of_false nofun nofun
  | clrWdt => exact execClrWdt_refused
  | clrWdt1 => exact execClrWdt1_refused
  | clrWdt2 => exact execClrWdt2_refused
  | ret | reti | retAX => exact withReturn_refused
  | jmp | call => exact withTarget_refused
  | addAM | adcAM | subAM | sbcAM | andAM | orAM | xorAM | cpla | inca | deca | rra | rrca | rla | rlca
  | movAM | swapa =>
    exact loadOp_refused.trans operandRefusal_none_eq_some.symm
  | addAX | subAX | andAX | orAX | xorAX | movAX => exact iff_of_false nofun nofun
  | addm | adcm | subm | sbcm | andm | orm | xorm | cpl | inc | dec | rrc | rlc =>
    exact modifyOp_flags_refused fun _ => rfl
  | daa => exact storeOp_flags_refused rfl
  | rr | rl | swap | setBit | clrBit => exact modifyOp_noFlags_refused
  | movMemA | clrM | setM => exact storeOp_noFlags_refused
  | sz | szBit | snzBit => exact testSkip_refused.trans operandRefusal_none_eq_some.symm
  | sza | siza | sdza => exact loadSkip_refused.trans operandRefusal_none_eq_some.symm
  | siz => exact modifySkip_refused_iff inc8_eq_zero_iff
  | sdz => exact modifySkip_refused_iff dec8_eq_zero_iff
  | tabrdc | tabrdl => exact tableRead_refused.trans operandRefusal_none_eq_some.symm

/-- Settles O48: `exec` has three outcomes; none is a fault, and a refusal would be in the table. -/
theorem everyOtherInstructionCompletes : Obligations.EveryOtherInstructionCompletes := by
  intro i s hnone
  cases hexec : exec i s with
  | next t => exact ⟨t, rfl⟩
  | fault f => cases f
  | refused r =>
    rw [(refusalsAreTheListedOnes i s r).mp hexec] at hnone
    cases hnone

/-! ## Refusals: the operand out of range, and the destination STATUS -/

theorem operandRefusal_of_outOfRange {m : MField} (h : MField.inRange m = false) (s : State) (k : DAddr → Option Refusal) :
    operandRefusal m s k = some .dataAddressAbove3FH :=
  operandRefusal_eq_some.mpr (.inl ⟨Nat.lt_of_not_le (of_decide_eq_false h), rfl⟩)

theorem targetRefusal_of_outOfRange {addr : AddrField} (h : AddrField.inRange addr = false) :
    targetRefusal addr = some .programAddressAbove3FFH :=
  if_pos (Nat.lt_of_not_le (of_decide_eq_false h))

/-- The table's entry for an instruction whose operand is out of range, whatever else it would be refused for. -/
theorem refusalOf_of_not_wf {i : Instr} (h : i.wf = false) (s : State) :
    refusalOf i s = some .dataAddressAbove3FH ∨ refusalOf i s = some .programAddressAbove3FFH := by
  cases i with dsimp only [refusalOf]
  | nop | clrWdt | clrWdt1 | halt | ret | reti | clrWdt2 | retAX | subAX | addAX | xorAX | orAX | andAX | movAX => cases h
  | jmp | call => exact .inr (targetRefusal_of_outOfRange h)
  | _ m => exact .inl (operandRefusal_of_outOfRange h s _)

/-- Settles O45: the table lists it, and `exec` follows the table. -/
theorem operandOutOfRangeIsRefused : Obligations.OperandOutOfRangeIsRefused := by
  intro i s hwf
  rw [refusalsAreTheListedOnes, refusalsAreTheListedOnes]
  exact refusalOf_of_not_wf hwf s

/-- Settles O46: in range and at STATUS, the thirteen have their entry in the table, and the others have none. -/
theorem flagWriteToStatusIsRefused : Obligations.FlagWriteToStatusIsRefused := by
  intro i m s hm ha hw
  rw [refusalsAreTheListedOnes]
  have hstatus : statusRefusal m s = some .flagWriteToStatus := statusRefusal_eq_some.mpr (.inr ⟨hm, ha, rfl⟩)
  have hother : (operandRefusal m s fun _ => none) ≠ some .flagWriteToStatus := by
    simp [operandRefusal_none_eq_some]
  have hskip (last : Nat) : skipRefusal m s last ≠ some .flagWriteToStatus := by
    simp [skipRefusal, operandRefusal_eq_some, ha]
  cases i with
  | addm | adcm | subm | sbcm | daa | andm | orm | xorm | cpl | inc | dec | rlc | rrc =>
    obtain rfl := Option.some.inj hw
    exact iff_of_true hstatus (by simp)
  | siz | sdz =>
    obtain rfl := Option.some.inj hw
    exact iff_of_false (hskip _) (by simp)
  | movMemA | swap | rl | rr | tabrdc | tabrdl | clrM | setM | setBit | clrBit =>
    obtain rfl := Option.some.inj hw
    exact iff_of_false hother (by simp)
  | _ => cases hw

end Sys2Proof.Machine
end

section
/-! What instructions do not look at: a change of the state that no instruction sees passes through `exec`. The outside
levels are one, but for reads of the ports (`20_memory.md` R70, R71); ENC is another (`30_encoding.md` R94). -/

namespace Sys2Proof.Machine

/-- `f` changes nothing that an instruction without a data read looks at, and what an instruction writes passes through
it. -/
structure Unseen (f : State → State) : Prop where
  ovSymmetric : ∀ s, (f s).cfg.ovSymmetric = s.cfg.ovSymmetric
  wdtEn : ∀ s, (f s).cfg.wdtEn = s.cfg.wdtEn
  clrWdtTimes : ∀ s, (f s).cfg.clrWdtTimes = s.cfg.clrWdtTimes
  pread : ∀ s a, (f s).pread a = s.pread a
  pc : ∀ s, (f s).pc = s.pc
  stkv : ∀ s, (f s).stkv = s.stkv
  acc : ∀ s, (f s).acc = s.acc
  tblp : ∀ s, (f s).tblp = s.tblp
  flagC : ∀ s, (f s).flagC = s.flagC
  flagAC : ∀ s, (f s).flagAC = s.flagAC
  w1 : ∀ s, (f s).w1 = s.w1
  w2 : ∀ s, (f s).w2 = s.w2
  effectiveAddress : ∀ m s, effectiveAddress m (f s) = effectiveAddress m s
  withFlags : ∀ s g, (f s).withFlags g = f (s.withFlags g)
  withAcc : ∀ s v, (f s).withAcc v = f (s.withAcc v)
  withPc : ∀ s a, (f s).withPc a = f (s.withPc a)
  withTblh : ∀ s v, (f s).withTblh v = f (s.withTblh v)
  tick : ∀ s n, (f s).tick n = f (s.tick n)
  skipIf : ∀ s b, (f s).skipIf b = f (s.skipIf b)
  dwrite : ∀ s a v, dwrite (f s) a v = f (dwrite s a v)
  push : ∀ s, (f s).push = f s.push
  pop : ∀ s, (f s).pop = f s.pop
  clearWatchdog : ∀ s, (f s).clearWatchdog = f s.clearWatchdog
  clearMarks : ∀ s, (f s).clearMarks = f s.clearMarks
  mark1 : ∀ s, (f s).mark1 = f s.mark1
  mark2 : ∀ s, (f s).mark2 = f s.mark2
  halt : ∀ s, execHalt (f s) = mapNext f (execHalt s)

@[simp] theorem mapNext_next_eq (f : State → State) (t : State) : mapNext f (.next t) = .next (f t) := rfl

theorem withTarget_mapNext (f : State → State) (addr : AddrField) {k k' : PAddr → Result}
    (hk : ∀ a, k' a = mapNext f (k a)) : withTarget addr k' = mapNext f (withTarget addr k) := by
  unfold withTarget
  split
  · exact hk _
  · rfl

namespace Unseen

section Shapes

variable {f : State → State} (hf : Unseen f) {s : State} {m : MField}
include hf

theorem withOperand {k k' : DAddr → Result}
    (hk : k' (Machine.effectiveAddress m s) = mapNext f (k (Machine.effectiveAddress m s))) :
    withOperand m (f s) k' = mapNext f (withOperand m s k) := by
  unfold Machine.withOperand
  rw [hf.effectiveAddress]
  split
  · exact hk
  · rfl

theorem storeResult (a : DAddr) (r : AluResult) : storeResult (f s) a r = mapNext f (storeResult s a r) := by
  unfold Machine.storeResult
  split
  · rfl
  · simp only [mapNext_next_eq, hf.withFlags, hf.dwrite, hf.tick]

theorem immediateOp {r r' : AluResult} (hr : r' = r) : immediateOp (f s) r' = mapNext f (immediateOp s r) := by
  simp only [Machine.immediateOp, mapNext_next_eq, hr, hf.withFlags, hf.withAcc, hf.tick]

theorem storeOp {r r' : AluResult} (hr : r' = r) : storeOp m (f s) r' = mapNext f (storeOp m s r) := by
  rw [hr]
  exact hf.withOperand (hf.storeResult _ r)

theorem tableRead {x x' : PAddr} (hx : x' = x) : tableRead m (f s) x' = mapNext f (tableRead m s x) := by
  refine hf.withOperand ?_
  simp only [mapNext_next_eq, hx, hf.pread, hf.withTblh, hf.dwrite, hf.tick]

theorem withReturn {k : State → Result} (hk : ∀ t, k (f t) = mapNext f (k t)) :
    withReturn (f s) k = mapNext f (withReturn s k) := by
  unfold Machine.withReturn
  rw [hf.stkv, hf.pop]
  split
  · exact hk _
  · rfl

theorem execClrWdt : execClrWdt (f s) = mapNext f (execClrWdt s) := by
  unfold Machine.execClrWdt
  simp only [hf.wdtEn, hf.clrWdtTimes, hf.clearWatchdog, hf.tick]
  cases s.cfg.wdtEn <;> cases s.cfg.clrWdtTimes <;> rfl

theorem execClrWdt1 : execClrWdt1 (f s) = mapNext f (execClrWdt1 s) := by
  unfold Machine.execClrWdt1
  simp only [hf.wdtEn, hf.clrWdtTimes, hf.w2, hf.clearWatchdog, hf.clearMarks, hf.mark1, hf.tick]
  cases s.cfg.wdtEn <;> cases s.cfg.clrWdtTimes <;> cases s.w2 <;> rfl

theorem execClrWdt2 : execClrWdt2 (f s) = mapNext f (execClrWdt2 s) := by
  unfold Machine.execClrWdt2
  simp only [hf.wdtEn, hf.clrWdtTimes, hf.w1, hf.clearWatchdog, hf.clearMarks, hf.mark2, hf.tick]
  cases s.cfg.wdtEn <;> cases s.cfg.clrWdtTimes <;> cases s.w1 <;> rfl

/-! The shapes that read a byte, which is the same after the change. -/

variable (hread : dread (f s) (Machine.effectiveAddress m s) = dread s (Machine.effectiveAddress m s))
include hread

theorem loadOp {op op' : Byte → AluResult} (hop : ∀ b, op' b = op b) :
    loadOp m (f s) op' = mapNext f (loadOp m s op) := by
  refine hf.withOperand ?_
  simp only [mapNext_next_eq, hop, hread, hf.withFlags, hf.withAcc, hf.tick]

theorem modifyOp {op op' : Byte → AluResult} (hop : ∀ b, op' b = op b) :
    modifyOp m (f s) op' = mapNext f (modifyOp m s op) := by
  refine hf.withOperand ?_
  rw [hread, hop]
  exact hf.storeResult _ _

theorem testSkip (p : Byte → Bool) : testSkip m (f s) p = mapNext f (testSkip m s p) := by
  refine hf.withOperand ?_
  simp only [mapNext_next_eq, hread, hf.skipIf, hf.tick]

theorem loadSkip (g : Byte → Byte) : loadSkip m (f s) g = mapNext f (loadSkip m s g) := by
  refine hf.withOperand ?_
  simp only [mapNext_next_eq, hread, hf.withAcc, hf.skipIf, hf.tick]

theorem modifySkip (g : Byte → Byte) : modifySkip m (f s) g = mapNext f (modifySkip m s g) := by
  refine hf.withOperand ?_
  simp only [hread, hf.dwrite, hf.skipIf, hf.tick]
  split <;> rfl

end Shapes

/-- A change that no instruction sees passes through an instruction whose data read, if any, does not see it either. -/
theorem exec {f : State → State} (hf : Unseen f) (i : Instr) (s : State)
    (hread : ∀ m, readOperand i = some m →
      dread (f s) (Machine.effectiveAddress m s) = dread s (Machine.effectiveAddress m s)) :
    exec i (f s) = mapNext f (exec i s) := by
  cases i with dsimp only [Machine.exec]
  | nop => exact congrArg _ (hf.tick s 1)
  | halt => exact hf.halt s
  | clrWdt => exact hf.execClrWdt
  | clrWdt1 => exact hf.execClrWdt1
  | clrWdt2 => exact hf.execClrWdt2
  | ret | reti => exact hf.withReturn fun t => congrArg _ (hf.tick t 2)
  | retAX x => exact hf.withReturn fun t => by simp only [mapNext_next_eq, hf.withAcc, hf.tick]
  | jmp addr => exact withTarget_mapNext f addr fun a => by simp only [mapNext_next_eq, hf.withPc, hf.tick]
  | call addr => exact withTarget_mapNext f addr fun a => by simp only [mapNext_next_eq, hf.push, hf.withPc, hf.tick]
  | addAM | adcAM | subAM | sbcAM | andAM | orAM | xorAM | cpla | inca | deca | rra | rrca | rla | rlca | movAM | swapa =>
    exact hf.loadOp (hread _ rfl) fun b => by simp only [hf.acc, hf.ovSymmetric, hf.flagC]
  | addAX | subAX | andAX | orAX | xorAX | movAX => exact hf.immediateOp (by simp only [hf.acc, hf.ovSymmetric])
  | addm | adcm | subm | sbcm | andm | orm | xorm | cpl | inc | dec | rr | rrc | rl | rlc | swap | setBit | clrBit =>
    exact hf.modifyOp (hread _ rfl) fun b => by simp only [hf.acc, hf.ovSymmetric, hf.flagC]
  | movMemA | daa | clrM | setM => exact hf.storeOp (by simp only [hf.acc, hf.flagAC, hf.flagC])
  | sz | szBit | snzBit => exact hf.testSkip (hread _ rfl) _
  | sza | siza | sdza => exact hf.loadSkip (hread _ rfl) _
  | siz | sdz => exact hf.modifySkip (hread _ rfl) _
  | tabrdc | tabrdl => exact hf.tableRead (by simp only [hf.pc, hf.tblp])

end Unseen

/-! ## The outside levels -/

theorem unseen_withLevels (pa pb : Byte) : Unseen fun s => s.withLevels pa pb := by
  constructor
  case skipIf => intro s b; cases b <;> rfl
  case dwrite => intro s a v; unfold dwrite; cases locOf a <;> rfl
  all_goals intros; rfl

theorem dread_withLevels {s : State} {a : DAddr} (pa pb : Byte) (ha : a ≠ 0x12#6) (hb : a ≠ 0x14#6) :
    dread (s.withLevels pa pb) a = dread s a := by
  unfold dread
  cases hl : locOf a with
  | portA => exact absurd ((locOf_eq_portA a).mp hl) ha
  | portB => exact absurd ((locOf_eq_portB a).mp hl) hb
  | _ => rfl

/-- Settles O57: the levels are read at 12H and 14H only. -/
theorem onlyPortReadsSeeTheLevels : Obligations.OnlyPortReadsSeeTheLevels := fun i s pa pb hread =>
  (unseen_withLevels pa pb).exec i s fun m hm => dread_withLevels pa pb (hread m hm).1 (hread m hm).2

/-! ## ENC -/

theorem unseen_withEnc (e : Enc) : Unseen fun s => s.withEnc e := by
  constructor
  case skipIf => intro s b; cases b <;> rfl
  case dwrite => intro s a v; unfold dwrite; cases locOf a <;> rfl
  all_goals intros; rfl

theorem dread_withEnc (s : State) (e : Enc) (a : DAddr) : dread (s.withEnc e) a = dread s a := by
  unfold dread
  cases locOf a <;> rfl

/-- Settles O59: the inverse by the two forms of ENC, and no instruction, nor a data read, looks at it. -/
theorem encodingIsAParameter : Obligations.EncodingIsAParameter :=
  ⟨fun _ _ _ => ⟨decodeUnder_of_encodeUnder, encodeUnder_of_decodeUnder⟩,
    fun e i s => (unseen_withEnc e).exec i s fun _ _ => dread_withEnc s e _⟩

end Sys2Proof.Machine
end
